-- ==== Sys2Proof/Word.lean ====
section
/-! DEFINITION. The machine's two word types (00_scope.md R7): an 8-bit data word and a 16-bit address or
register-pair word. Arithmetic on them wraps (R12), which is what `BitVec` arithmetic does. -/

namespace Sys2Proof

/-- An 8-bit data word: every register-file cell, bus value and device read (R7). -/
abbrev Byte := BitVec 8

/-- A 16-bit word: addresses, pc, sp, register pairs, the timer's main counter (R7). -/
abbrev Word := BitVec 16

end Sys2Proof
end

