-- ==== Sys2Proof/Syntax.lean ====
section
/-! DEFINITION. The instruction set as data: one constructor per instruction rule R401 to R431, R455 to R486, R503 to
R506, R522 to R547, R561 to R575 and R601 to R608. The 512 rows of spec/opcode_table.json are these constructors with
their register, condition, bit-index and vector fields filled in (30_encoding.md R308, R309, R311, R312).

Naming: a suffix `R` is a register operand, `Ind` the byte at (HL), `N` an immediate byte, `Rp` a register pair. -/

namespace Sys2Proof

/-- The registers an 8-bit register field can name (30_encoding.md R304). Code 6, (HL), has constructors of its own,
and F cannot be named. -/
inductive R8 where
  | b | c | d | e | h | l | a
  deriving DecidableEq, Repr

/-- The 16-bit field `rp` (R305): LD rr,n16; ADD HL,rr; INC rr; DEC rr. -/
inductive Rp where
  | bc | de | hl | sp
  deriving DecidableEq, Repr

/-- The 16-bit field `rp2` (R305): PUSH and POP. -/
inductive Rp2 where
  | bc | de | hl | af
  deriving DecidableEq, Repr

/-- The condition field (R306). -/
inductive Cond where
  | nz | z | nc | c
  deriving DecidableEq, Repr

/-- One instruction, its operand bytes included. -/
inductive Instr where
  /- loads, stores and stack: 40_loads.md -/
  /-- R401 LD r,r' -/
  | ldRR (r r' : R8)
  /-- R402 LD r,n8 -/
  | ldRN (r : R8) (n : Byte)
  /-- R403 LD r,(HL) -/
  | ldRInd (r : R8)
  /-- R404 LD (HL),r -/
  | ldIndR (r : R8)
  /-- R405 LD (HL),n8 -/
  | ldIndN (n : Byte)
  /-- R406 LD A,(BC) -/
  | ldABc
  /-- R407 LD A,(DE) -/
  | ldADe
  /-- R408 LD (BC),A -/
  | ldBcA
  /-- R409 LD (DE),A -/
  | ldDeA
  /-- R410 LD A,(a16) -/
  | ldAA16 (a16 : Word)
  /-- R411 LD (a16),A -/
  | ldA16A (a16 : Word)
  /-- R412 LD A,(HL+) -/
  | ldAHli
  /-- R413 LD A,(HL-) -/
  | ldAHld
  /-- R414 LD (HL+),A -/
  | ldHliA
  /-- R415 LD (HL-),A -/
  | ldHldA
  /-- R416 LDH A,(a8) -/
  | ldhAA8 (a8 : Byte)
  /-- R417 LDH (a8),A -/
  | ldhA8A (a8 : Byte)
  /-- R418 LD A,(C) -/
  | ldAC
  /-- R419 LD (C),A -/
  | ldCA
  /-- R420 LD rr,n16 -/
  | ldRpN16 (rp : Rp) (n16 : Word)
  /-- R421 LD (a16),SP -/
  | ldA16Sp (a16 : Word)
  /-- R422 LD SP,HL -/
  | ldSpHl
  /-- R423 LD HL,SP+e8 -/
  | ldHlSpE (e : Byte)
  /-- R430 PUSH rr -/
  | push (rp : Rp2)
  /-- R431 POP rr -/
  | pop (rp : Rp2)
  /- 8-bit arithmetic and logic: 41_alu8.md -/
  /-- R455 ADD A,r -/
  | addR (r : R8)
  /-- R456 ADD A,(HL) -/
  | addInd
  /-- R457 ADD A,n8 -/
  | addN (n : Byte)
  /-- R458 ADC A,r -/
  | adcR (r : R8)
  /-- R459 ADC A,(HL) -/
  | adcInd
  /-- R460 ADC A,n8 -/
  | adcN (n : Byte)
  /-- R461 SUB r -/
  | subR (r : R8)
  /-- R462 SUB (HL) -/
  | subInd
  /-- R463 SUB n8 -/
  | subN (n : Byte)
  /-- R464 SBC A,r -/
  | sbcR (r : R8)
  /-- R465 SBC A,(HL) -/
  | sbcInd
  /-- R466 SBC A,n8 -/
  | sbcN (n : Byte)
  /-- R467 AND r -/
  | andR (r : R8)
  /-- R468 AND (HL) -/
  | andInd
  /-- R469 AND n8 -/
  | andN (n : Byte)
  /-- R470 XOR r -/
  | xorR (r : R8)
  /-- R471 XOR (HL) -/
  | xorInd
  /-- R472 XOR n8 -/
  | xorN (n : Byte)
  /-- R473 OR r -/
  | orR (r : R8)
  /-- R474 OR (HL) -/
  | orInd
  /-- R475 OR n8 -/
  | orN (n : Byte)
  /-- R476 CP r -/
  | cpR (r : R8)
  /-- R477 CP (HL) -/
  | cpInd
  /-- R478 CP n8 -/
  | cpN (n : Byte)
  /-- R479 INC r -/
  | incR (r : R8)
  /-- R480 INC (HL) -/
  | incInd
  /-- R481 DEC r -/
  | decR (r : R8)
  /-- R482 DEC (HL) -/
  | decInd
  /-- R483 DAA -/
  | daa
  /-- R484 CPL -/
  | cpl
  /-- R485 SCF -/
  | scf
  /-- R486 CCF -/
  | ccf
  /- 16-bit arithmetic: 42_alu16.md -/
  /-- R503 ADD HL,rr -/
  | addHlRp (rp : Rp)
  /-- R504 INC rr -/
  | incRp (rp : Rp)
  /-- R505 DEC rr -/
  | decRp (rp : Rp)
  /-- R506 ADD SP,e8 -/
  | addSpE (e : Byte)
  /- rotates, shifts and bits: 43_rotate_shift_bit.md -/
  /-- R522 RLCA -/
  | rlca
  /-- R523 RRCA -/
  | rrca
  /-- R524 RLA -/
  | rla
  /-- R525 RRA -/
  | rra
  /-- R526 RLC r -/
  | rlcR (r : R8)
  /-- R527 RLC (HL) -/
  | rlcInd
  /-- R528 RRC r -/
  | rrcR (r : R8)
  /-- R529 RRC (HL) -/
  | rrcInd
  /-- R530 RL r -/
  | rlR (r : R8)
  /-- R531 RL (HL) -/
  | rlInd
  /-- R532 RR r -/
  | rrR (r : R8)
  /-- R533 RR (HL) -/
  | rrInd
  /-- R534 SLA r -/
  | slaR (r : R8)
  /-- R535 SLA (HL) -/
  | slaInd
  /-- R536 SRA r -/
  | sraR (r : R8)
  /-- R537 SRA (HL) -/
  | sraInd
  /-- R538 SWAP r -/
  | swapR (r : R8)
  /-- R539 SWAP (HL) -/
  | swapInd
  /-- R540 SRL r -/
  | srlR (r : R8)
  /-- R541 SRL (HL) -/
  | srlInd
  /-- R542 BIT b,r -/
  | bitR (b : BitVec 3) (r : R8)
  /-- R543 BIT b,(HL) -/
  | bitInd (b : BitVec 3)
  /-- R544 RES b,r -/
  | resR (b : BitVec 3) (r : R8)
  /-- R545 RES b,(HL) -/
  | resInd (b : BitVec 3)
  /-- R546 SET b,r -/
  | setR (b : BitVec 3) (r : R8)
  /-- R547 SET b,(HL) -/
  | setInd (b : BitVec 3)
  /- control transfer: 44_control.md -/
  /-- R561 JP a16 -/
  | jp (a16 : Word)
  /-- R562 JP cc,a16 -/
  | jpCc (cc : Cond) (a16 : Word)
  /-- R563 JP HL -/
  | jpHl
  /-- R564 JR e8 -/
  | jr (e : Byte)
  /-- R565 JR cc,e8 -/
  | jrCc (cc : Cond) (e : Byte)
  /-- R566 CALL a16 -/
  | call (a16 : Word)
  /-- R567 CALL cc,a16 -/
  | callCc (cc : Cond) (a16 : Word)
  /-- R568 RET -/
  | ret
  /-- R569 RET cc -/
  | retCc (cc : Cond)
  /-- R570 RETI -/
  | reti
  /-- R575 RST t, with `y` the vector field: t = y * 8 -/
  | rst (y : BitVec 3)
  /- system and CPU control: 45_system.md -/
  /-- R601 NOP -/
  | nop
  /-- R602 HALT -/
  | halt
  /-- R603 STOP, with its unused byte 2 -/
  | stop (n : Byte)
  /-- R604 DI -/
  | di
  /-- R605 EI -/
  | ei
  /-- R607 PREFIX 0xCB and the opcode of the prefixed page behind it. A decoding entry (R600): the decoder answers the
  prefixed instruction itself, and this constructor's meaning is that instruction's. -/
  | prefixCB (b1 : Byte)
  /-- R608 ILLEGAL, one of the eleven unassigned unprefixed codes (R310) -/
  | illegal (op : Byte)
  deriving DecidableEq, Repr

end Sys2Proof
end

