-- ==== Sys2Proof/WellFormed.lean ====
section
/-! DEFINITION. Which terms of `Instr` the decoder can produce. Every field of a constructor admits every value of its
type but two: the byte of `illegal` is one of the eleven codes of 30_encoding.md R310, and `prefixCB` is the decoding
entry of R600 and R607, which the decoder always resolves to the prefixed instruction behind it. -/

namespace Sys2Proof

/-- The eleven unprefixed bytes that encode no instruction (R310). -/
def illegalOpcodes : List Byte :=
  [0xD3, 0xDB, 0xDD, 0xE3, 0xE4, 0xEB, 0xEC, 0xED, 0xF4, 0xFC, 0xFD]

/-- The instruction is one the decoder can answer. -/
def Instr.wellFormed : Instr → Bool
  | .illegal op => illegalOpcodes.contains op
  | .prefixCB _ => false
  | _ => true

end Sys2Proof
end

