-- ==== Sys2Proof/Decode.lean ====
section
/-! DEFINITION. Decoding (30_encoding.md R300 to R313), total on any bytes, and the encoder from the same tables. -/

namespace Sys2Proof

/-! ## Opcode fields (R302) -/

/-- `x = op[7:6]`. -/
def fieldX (op : Byte) : Nat := op.toNat / 64
/-- `y = op[5:3]`. -/
def fieldY (op : Byte) : Nat := op.toNat / 8 % 8
/-- `z = op[2:0]`. -/
def fieldZ (op : Byte) : Nat := op.toNat % 8

/-- Register field (R304); `none` is code 6, the byte at (HL). -/
def r8OfCode : Nat → Option R8
  | 0 => some .b | 1 => some .c | 2 => some .d | 3 => some .e
  | 4 => some .h | 5 => some .l | 6 => none | _ => some .a

/-- The code of a register (R304). -/
def r8Code : R8 → Nat
  | .b => 0 | .c => 1 | .d => 2 | .e => 3 | .h => 4 | .l => 5 | .a => 7

/-- Field `rp` (R305). -/
def rpOfCode : Nat → Rp
  | 0 => .bc | 1 => .de | 2 => .hl | _ => .sp

/-- The code of a pair of field `rp` (R305). -/
def rpCode : Rp → Nat
  | .bc => 0 | .de => 1 | .hl => 2 | .sp => 3

/-- Field `rp2` (R305). -/
def rp2OfCode : Nat → Rp2
  | 0 => .bc | 1 => .de | 2 => .hl | _ => .af

/-- The code of a pair of field `rp2` (R305). -/
def rp2Code : Rp2 → Nat
  | .bc => 0 | .de => 1 | .hl => 2 | .af => 3

/-- Condition field (R306). -/
def condOfCode : Nat → Cond
  | 0 => .nz | 1 => .z | 2 => .nc | _ => .c

/-- The code of a condition (R306). -/
def condCode : Cond → Nat
  | .nz => 0 | .z => 1 | .nc => 2 | .c => 3

/-! ## Instruction lengths (R301) -/

/-- The length of the instruction that begins with this byte: the table "Length by first byte" of R301. -/
def opLength (op : Byte) : Nat :=
  if ([0x01, 0x11, 0x21, 0x31, 0x08, 0xC2, 0xC3, 0xC4, 0xCA, 0xCC, 0xCD, 0xD2, 0xD4, 0xDA, 0xDC, 0xEA,
       0xFA] : List Byte).contains op then 3
  else if ([0x06, 0x0E, 0x16, 0x1E, 0x26, 0x2E, 0x36, 0x3E, 0x10, 0x18, 0x20, 0x28, 0x30, 0x38, 0xC6, 0xCE,
       0xD6, 0xDE, 0xE6, 0xEE, 0xF6, 0xFE, 0xE0, 0xF0, 0xE8, 0xF8, 0xCB] : List Byte).contains op then 2
  else 1

/-! ## The two pages (R308, R309) -/

/-- The operation `y` of the 8-bit group (R307) on register `r`, or on the byte at (HL). -/
def decodeAlu (y : Nat) : Option R8 → Instr
  | some r => match y with
    | 0 => .addR r | 1 => .adcR r | 2 => .subR r | 3 => .sbcR r
    | 4 => .andR r | 5 => .xorR r | 6 => .orR r | _ => .cpR r
  | none => match y with
    | 0 => .addInd | 1 => .adcInd | 2 => .subInd | 3 => .sbcInd
    | 4 => .andInd | 5 => .xorInd | 6 => .orInd | _ => .cpInd

/-- The operation `y` of the 8-bit group on an immediate (R307). -/
def decodeAluN (y : Nat) (n : Byte) : Instr :=
  match y with
  | 0 => .addN n | 1 => .adcN n | 2 => .subN n | 3 => .sbcN n
  | 4 => .andN n | 5 => .xorN n | 6 => .orN n | _ => .cpN n

/-- The prefixed page: the byte after 0xCB (R309, R312). Every code is defined. -/
def decodeCb (b1 : Byte) : Instr :=
  let y := fieldY b1
  let b := BitVec.ofNat 3 y
  match fieldX b1, r8OfCode (fieldZ b1) with
  | 0, some r => match y with
    | 0 => .rlcR r | 1 => .rrcR r | 2 => .rlR r | 3 => .rrR r
    | 4 => .slaR r | 5 => .sraR r | 6 => .swapR r | _ => .srlR r
  | 0, none => match y with
    | 0 => .rlcInd | 1 => .rrcInd | 2 => .rlInd | 3 => .rrInd
    | 4 => .slaInd | 5 => .sraInd | 6 => .swapInd | _ => .srlInd
  | 1, some r => .bitR b r
  | 1, none => .bitInd b
  | 2, some r => .resR b r
  | 2, none => .resInd b
  | _, some r => .setR b r
  | _, none => .setInd b

/-- Rows x = 0 of the unprefixed page (R308). -/
def decodeX0 (y z : Nat) (n1 n2 : Byte) : Instr :=
  let n16 : Word := n2 ++ n1
  match z with
  | 0 => match y with
    | 0 => .nop
    | 1 => .ldA16Sp n16
    | 2 => .stop n1
    | 3 => .jr n1
    | y' => .jrCc (condOfCode (y' - 4)) n1
  | 1 => if y % 2 = 0 then .ldRpN16 (rpOfCode (y / 2)) n16 else .addHlRp (rpOfCode (y / 2))
  | 2 => match y with
    | 0 => .ldBcA | 1 => .ldABc | 2 => .ldDeA | 3 => .ldADe
    | 4 => .ldHliA | 5 => .ldAHli | 6 => .ldHldA | _ => .ldAHld
  | 3 => if y % 2 = 0 then .incRp (rpOfCode (y / 2)) else .decRp (rpOfCode (y / 2))
  | 4 => match r8OfCode y with
    | some r => .incR r
    | none => .incInd
  | 5 => match r8OfCode y with
    | some r => .decR r
    | none => .decInd
  | 6 => match r8OfCode y with
    | some r => .ldRN r n1
    | none => .ldIndN n1
  | _ => match y with
    | 0 => .rlca | 1 => .rrca | 2 => .rla | 3 => .rra
    | 4 => .daa | 5 => .cpl | 6 => .scf | _ => .ccf

/-- Rows x = 1 of the unprefixed page (R308): LD r,r' and HALT at 0x76. -/
def decodeX1 (y z : Nat) : Instr :=
  match r8OfCode y, r8OfCode z with
  | some r, some r' => .ldRR r r'
  | some r, none => .ldRInd r
  | none, some r => .ldIndR r
  | none, none => .halt

/-- Rows x = 3 of the unprefixed page (R308), `op` the whole byte, which an illegal code keeps. -/
def decodeX3 (op : Byte) (y z : Nat) (n1 n2 : Byte) : Instr :=
  let n16 : Word := n2 ++ n1
  match z with
  | 0 => match y with
    | 4 => .ldhA8A n1
    | 5 => .addSpE n1
    | 6 => .ldhAA8 n1
    | 7 => .ldHlSpE n1
    | cc => .retCc (condOfCode cc)
  | 1 => match y with
    | 1 => .ret
    | 3 => .reti
    | 5 => .jpHl
    | 7 => .ldSpHl
    | y' => .pop (rp2OfCode (y' / 2))
  | 2 => match y with
    | 4 => .ldCA
    | 5 => .ldA16A n16
    | 6 => .ldAC
    | 7 => .ldAA16 n16
    | cc => .jpCc (condOfCode cc) n16
  | 3 => match y with
    | 0 => .jp n16
    | 1 => decodeCb n1
    | 6 => .di
    | 7 => .ei
    | _ => .illegal op
  | 4 => match y with
    | 0 => .callCc .nz n16
    | 1 => .callCc .z n16
    | 2 => .callCc .nc n16
    | 3 => .callCc .c n16
    | _ => .illegal op
  | 5 => match y with
    | 1 => .call n16
    | 3 => .illegal op
    | 5 => .illegal op
    | 7 => .illegal op
    | y' => .push (rp2OfCode (y' / 2))
  | 6 => decodeAluN y n1
  | _ => .rst (BitVec.ofNat 3 y)

/-- The decode procedure of R313 on an opcode byte and the two bytes after it, of which the instruction uses as many
as its length needs. Total: the unprefixed page, the prefixed page behind 0xCB, and the illegal codes by name. -/
def decode3 (op n1 n2 : Byte) : Instr :=
  match fieldX op with
  | 0 => decodeX0 (fieldY op) (fieldZ op) n1 n2
  | 1 => decodeX1 (fieldY op) (fieldZ op)
  | 2 => decodeAlu (fieldY op) (r8OfCode (fieldZ op))
  | _ => decodeX3 op (fieldY op) (fieldZ op) n1 n2

/-- Why a list of bytes holds no instruction: it ends inside one. No complete sequence is rejected (R313). -/
inductive DecodeError where
  /-- no byte at all -/
  | noBytes
  /-- the list ends before the operand bytes that the opcode needs -/
  | truncated (op : Byte)
  deriving DecidableEq, Repr

/-- The instruction at the front of a list of bytes, and the bytes after it. -/
def decode : List Byte → Except DecodeError (Instr × List Byte)
  | [] => .error .noBytes
  | op :: rest =>
    match opLength op, rest with
    | 1, rest => .ok (decode3 op 0 0, rest)
    | 2, n1 :: rest => .ok (decode3 op n1 0, rest)
    | 3, n1 :: n2 :: rest => .ok (decode3 op n1 n2, rest)
    | _, _ => .error (.truncated op)

/-! ## The encoder (the Encoding line of every instruction rule) -/

/-- An opcode byte from its fields `x yyy zzz` (R302). -/
def opByte (x y z : Nat) : Byte := BitVec.ofNat 8 (64 * x + 8 * y + z)

/-- Low byte first (R307, 20_memory.md R241). -/
def le16 (n : Word) : List Byte := [n.extractLsb' 0 8, n.extractLsb' 8 8]

/-- The bytes of an instruction, in address order. -/
def encode : Instr → List Byte
  | .ldRR r r' => [opByte 1 (r8Code r) (r8Code r')]
  | .ldRN r n => [opByte 0 (r8Code r) 6, n]
  | .ldRInd r => [opByte 1 (r8Code r) 6]
  | .ldIndR r => [opByte 1 6 (r8Code r)]
  | .ldIndN n => [0x36, n]
  | .ldABc => [0x0A]
  | .ldADe => [0x1A]
  | .ldBcA => [0x02]
  | .ldDeA => [0x12]
  | .ldAA16 a16 => 0xFA :: le16 a16
  | .ldA16A a16 => 0xEA :: le16 a16
  | .ldAHli => [0x2A]
  | .ldAHld => [0x3A]
  | .ldHliA => [0x22]
  | .ldHldA => [0x32]
  | .ldhAA8 a8 => [0xF0, a8]
  | .ldhA8A a8 => [0xE0, a8]
  | .ldAC => [0xF2]
  | .ldCA => [0xE2]
  | .ldRpN16 rp n16 => opByte 0 (2 * rpCode rp) 1 :: le16 n16
  | .ldA16Sp a16 => 0x08 :: le16 a16
  | .ldSpHl => [0xF9]
  | .ldHlSpE e => [0xF8, e]
  | .push rp => [opByte 3 (2 * rp2Code rp) 5]
  | .pop rp => [opByte 3 (2 * rp2Code rp) 1]
  | .addR r => [opByte 2 0 (r8Code r)]
  | .addInd => [0x86]
  | .addN n => [0xC6, n]
  | .adcR r => [opByte 2 1 (r8Code r)]
  | .adcInd => [0x8E]
  | .adcN n => [0xCE, n]
  | .subR r => [opByte 2 2 (r8Code r)]
  | .subInd => [0x96]
  | .subN n => [0xD6, n]
  | .sbcR r => [opByte 2 3 (r8Code r)]
  | .sbcInd => [0x9E]
  | .sbcN n => [0xDE, n]
  | .andR r => [opByte 2 4 (r8Code r)]
  | .andInd => [0xA6]
  | .andN n => [0xE6, n]
  | .xorR r => [opByte 2 5 (r8Code r)]
  | .xorInd => [0xAE]
  | .xorN n => [0xEE, n]
  | .orR r => [opByte 2 6 (r8Code r)]
  | .orInd => [0xB6]
  | .orN n => [0xF6, n]
  | .cpR r => [opByte 2 7 (r8Code r)]
  | .cpInd => [0xBE]
  | .cpN n => [0xFE, n]
  | .incR r => [opByte 0 (r8Code r) 4]
  | .incInd => [0x34]
  | .decR r => [opByte 0 (r8Code r) 5]
  | .decInd => [0x35]
  | .daa => [0x27]
  | .cpl => [0x2F]
  | .scf => [0x37]
  | .ccf => [0x3F]
  | .addHlRp rp => [opByte 0 (2 * rpCode rp + 1) 1]
  | .incRp rp => [opByte 0 (2 * rpCode rp) 3]
  | .decRp rp => [opByte 0 (2 * rpCode rp + 1) 3]
  | .addSpE e => [0xE8, e]
  | .rlca => [0x07]
  | .rrca => [0x0F]
  | .rla => [0x17]
  | .rra => [0x1F]
  | .rlcR r => [0xCB, opByte 0 0 (r8Code r)]
  | .rlcInd => [0xCB, 0x06]
  | .rrcR r => [0xCB, opByte 0 1 (r8Code r)]
  | .rrcInd => [0xCB, 0x0E]
  | .rlR r => [0xCB, opByte 0 2 (r8Code r)]
  | .rlInd => [0xCB, 0x16]
  | .rrR r => [0xCB, opByte 0 3 (r8Code r)]
  | .rrInd => [0xCB, 0x1E]
  | .slaR r => [0xCB, opByte 0 4 (r8Code r)]
  | .slaInd => [0xCB, 0x26]
  | .sraR r => [0xCB, opByte 0 5 (r8Code r)]
  | .sraInd => [0xCB, 0x2E]
  | .swapR r => [0xCB, opByte 0 6 (r8Code r)]
  | .swapInd => [0xCB, 0x36]
  | .srlR r => [0xCB, opByte 0 7 (r8Code r)]
  | .srlInd => [0xCB, 0x3E]
  | .bitR b r => [0xCB, opByte 1 b.toNat (r8Code r)]
  | .bitInd b => [0xCB, opByte 1 b.toNat 6]
  | .resR b r => [0xCB, opByte 2 b.toNat (r8Code r)]
  | .resInd b => [0xCB, opByte 2 b.toNat 6]
  | .setR b r => [0xCB, opByte 3 b.toNat (r8Code r)]
  | .setInd b => [0xCB, opByte 3 b.toNat 6]
  | .jp a16 => 0xC3 :: le16 a16
  | .jpCc cc a16 => opByte 3 (condCode cc) 2 :: le16 a16
  | .jpHl => [0xE9]
  | .jr e => [0x18, e]
  | .jrCc cc e => [opByte 0 (4 + condCode cc) 0, e]
  | .call a16 => 0xCD :: le16 a16
  | .callCc cc a16 => opByte 3 (condCode cc) 4 :: le16 a16
  | .ret => [0xC9]
  | .retCc cc => [opByte 3 (condCode cc) 0]
  | .reti => [0xD9]
  | .rst y => [opByte 3 y.toNat 7]
  | .nop => [0x00]
  | .halt => [0x76]
  | .stop n => [0x10, n]
  | .di => [0xF3]
  | .ei => [0xFB]
  | .prefixCB b1 => [0xCB, b1]
  | .illegal op => [op]

/-! ## The host's question: a row of the opcode table as bytes -/

/-- The first three bytes, in address order, of an instruction given as a number. A row of the unprefixed page gives
its opcode byte in bits 7..0 (`nbits` = 8), and the operand bytes above it are zero. A row of the prefixed page is
written in the table as the 16-bit number 0xCBxx: its first byte, the prefix, stands in bits 15..8 and the prefixed
opcode in bits 7..0. Any other 16-bit number, and any longer one, has its first byte in bits 7..0. Log entry 3. -/
def tableBytes (nbits w : Nat) : Byte × Byte × Byte :=
  let byteAt (k : Nat) : Byte := if 8 * k < nbits then BitVec.ofNat 8 (w / 256 ^ k) else 0
  if nbits = 16 ∧ w / 256 = 0xCB then (0xCB, BitVec.ofNat 8 w, 0)
  else (byteAt 0, byteAt 1, byteAt 2)

/-- What the decoder reads from a row of spec/opcode_table.json whose bits are `w`. -/
def decodeTableWord (nbits w : Nat) : Option Instr :=
  match tableBytes nbits w with
  | (b0, b1, b2) =>
    match decode [b0, b1, b2] with
    | .ok (i, _) => some i
    | .error _ => none

end Sys2Proof
end

