-- ==== Sys2Proof/Config.lean ====
section
/-! DEFINITION. What an implementation fixes and the spec leaves open (00_scope.md R9, 92_eei_decisions.md D23, D24).
The two behaviour parameters have no body here: nothing can be proved of the value `State.reset` takes for them, so no
claim about a run from reset can lean on one. Every state carries its own values (`State.params`), so a claim that
names a value is a claim about the states that hold it. Assumption log entry 2. -/

namespace Sys2Proof

/-- `EI_DELAY`: whether EI takes effect after the next instruction (true) or at once (false). OPEN (D23). -/
opaque Config.eiDelay : Bool

/-- `HALT_BUG`: whether HALT with IME = 0 and an interrupt pending fails to advance the fetch. OPEN (D24). -/
opaque Config.haltBug : Bool

end Sys2Proof
end

