-- ==== Sys2Proof/Machine/State.lean ====
section
/-! DEFINITION. The state of the machine as plain data: every piece of state of 10_state.md, device by device, the
reasons a step can stop, and the state right after reset. -/

namespace Sys2Proof.Machine

/-! ## CPU state (10_state.md sections 1 to 5) -/

/-- The four flags of register F, its bits 7 to 4 (R104). F[3:0] has no storage: it always reads 0. -/
structure Flags where
  /-- zero, F[7] -/
  z : Bool
  /-- subtract, F[6] -/
  n : Bool
  /-- half-carry, F[5] -/
  h : Bool
  /-- carry, F[4] -/
  c : Bool
  deriving DecidableEq, Repr

/-- The register file (R100): seven plain cells and F, held as its four flags. The pairs have no storage (R103). -/
structure Regs where
  a : Byte
  f : Flags
  b : Byte
  c : Byte
  d : Byte
  e : Byte
  h : Byte
  l : Byte
  deriving DecidableEq, Repr

/-- A next-non-idle-cycle counter (R110 for the CPU, R138 for the display): a cycle index, or HALTED. -/
inductive NextCycle where
  | cycle (n : Nat)
  | halted
  deriving DecidableEq, Repr

/-- The machine's faults (R701, R702): held in `State.fault` once raised, and the reason every later step stops. -/
inductive Fault where
  /-- R608: an unassigned opcode was fetched; `pc` is the address the rule runs at, `op` the byte. Raised by the meaning
  of `illegal` as the spec describes it; a step of a machine that holds it stops with it. Safe: the chip locks up, and
  no claim about the states after it can be proved (D21). -/
  | illegalOpcode (pc : Word) (op : Byte)
  /-- R603: STOP was executed. Raised by the meaning of `stop`; a step of a machine that holds it stops with it.
  Safe: the spec models nothing after it (D22). -/
  | stopUnmodelled (pc : Word)
  deriving DecidableEq, Repr

/-- What is refused (R701, R703): host calls only. No step and no meaning answers with a refusal. -/
inductive Refusal where
  /-- An arm of `exec` whose instruction has no meaning yet; none is left. Safe. -/
  | notModelled (mnemonic : String)
  /-- R225: `construct` was given an image the loader does not accept: its header byte 0x147 and its length. Safe. -/
  | cartridgeUnsupported (header : Byte) (length : Nat)
  /-- R910: `runUntil t` with `t < cycles`. Safe. -/
  | schedulingViolation (t cycles : Nat)
  /-- R935: `restore` of a saved state that does not fit the machine. Safe. -/
  | saveStateMismatch
  /-- R201, R207, R13: a host call or a bit operation with an argument out of its range. Safe: the CPU wraps every
  value, so no step raises it (R12). -/
  | argumentRejected
  deriving DecidableEq, Repr

/-! ## Byte stores -/

/-- The contents of a RAM or ROM: pairs of an index into the store and the byte there, indexes strictly rising, no
byte equal to what an unlisted index reads as (`unlistedByte`). -/
abbrev Mem := List Host.Cell

/-- What a byte that nothing has written reads as. DESIGN CHOICE, unsafe: the spec leaves the initial contents to the
parameter `INIT_MEM` (D7), which `construct` takes; a store with nothing listed is all zero. Assumption log entry 1. -/
def unlistedByte : Byte := 0

/-! ## Timer state (10_state.md section 6) -/

structure Timer where
  /-- the main counter; DIV is its upper byte (R120, R121) -/
  tcount : Word
  /-- R122 -/
  tima : Byte
  /-- R122 -/
  tma : Byte
  /-- TAC[2:0]; bits 7:3 have no storage (R123) -/
  tac : BitVec 3
  deriving DecidableEq, Repr

/-! ## Display state (10_state.md section 7) -/

/-- The mode of the display's state machine (R138), what STAT[1:0] reads (R131). -/
inductive LcdMode where
  /-- mode 0 -/
  | hblank
  /-- mode 1 -/
  | vblank
  /-- mode 2 -/
  | oamScan
  /-- mode 3 -/
  | transfer
  deriving DecidableEq, Repr

/-- A pixel line (60_exceptions.md R855): three bit vectors of one length; pixel x is bit x of each. -/
structure PixelLine (n : Nat) where
  msb : BitVec n
  lsb : BitVec n
  opacity : BitVec n
  deriving DecidableEq, Repr

/-- The all-zero line: every pixel of color 0, transparent. -/
def PixelLine.zero (n : Nat) : PixelLine n := { msb := 0, lsb := 0, opacity := 0 }

/-- A frame: 144 lines of 160 pixels (60_exceptions.md R859). -/
abbrev Frame := Vector (PixelLine 160) 144

/-- The all-zero frame (R138). -/
def zeroFrame : Frame := Vector.replicate 144 (PixelLine.zero 160)

structure Lcd where
  /-- R130 -/
  lcdc : Byte
  /-- STAT[6:3], the four interrupt enables: bit 0 is INT_MODE0, bit 3 is INT_LYC (R131) -/
  statEn : BitVec 4
  /-- STAT[2], LYC_EQ (R131) -/
  lycEq : Bool
  /-- STAT[1:0], `mode` (R131, R138) -/
  mode : LcdMode
  /-- R132 -/
  scy : Byte
  /-- R132 -/
  scx : Byte
  /-- R133 -/
  ly : Byte
  /-- R133 -/
  lyc : Byte
  /-- R134: the last value written to 0xFF46 -/
  dma : Byte
  /-- R135 -/
  bgp : Byte
  /-- R135 -/
  obp0 : Byte
  /-- R135 -/
  obp1 : Byte
  /-- R136 -/
  wy : Byte
  /-- R136 -/
  wx : Byte
  /-- video RAM, 8192 bytes, index 0 at 0x8000 (R137) -/
  vram : Mem
  /-- OAM, 160 bytes, index 0 at 0xFE00 (R137) -/
  oam : Mem
  /-- `lcd_next` (R138) -/
  lcdNext : NextCycle
  /-- `win_line` (R138) -/
  winLine : Byte
  /-- `frame_build` (R138) -/
  frameBuild : Frame
  /-- `frame_out` (R138) -/
  frameOut : Frame
  /-- `dma_src` (R138) -/
  dmaSrc : Word
  /-- `dma_index`, 160 when idle (R138) -/
  dmaIndex : Nat
  deriving DecidableEq, Repr

/-! ## Cartridge (10_state.md section 8) -/

/-- The cartridge's bank controller (20_memory.md R225). -/
inductive CartKind where
  | mbc0
  | mbc1
  deriving DecidableEq, Repr

structure Cart where
  kind : CartKind
  /-- `ROM_SIZE` (R225) -/
  romSize : Nat
  /-- `CART`, read-only (R142) -/
  rom : Mem
  /-- `RAM_SIZE` (R225) -/
  ramSize : Nat
  /-- cartridge RAM (R142) -/
  ram : Mem
  /-- MBC1 registers (R142) -/
  ramEnable : Bool
  romBank5 : BitVec 5
  bank2 : BitVec 2
  bankMode : Bool
  deriving DecidableEq, Repr

/-- The behaviour parameters of a launch (00_scope.md R9), fixed for the machine: no step writes them. -/
structure Params where
  /-- `EI_DELAY` -/
  eiDelay : Bool
  /-- `HALT_BUG` -/
  haltBug : Bool
  deriving DecidableEq, Repr

/-! ## The machine -/

structure State where
  /-- register file (R100) -/
  regs : Regs
  /-- R105 -/
  pc : Word
  /-- R106 -/
  sp : Word
  /-- R107 -/
  ime : Bool
  /-- IE, at 0xFFFF (R108) -/
  ie : Byte
  /-- IF[4:0], at 0xFF0F; bits 7:5 have no storage (R109) -/
  iflag : BitVec 5
  /-- `next_cycle` (R110) -/
  nextCycle : NextCycle
  /-- `ime_pending` (R111) -/
  imePending : Bool
  /-- `halt_bug_pending` (R111) -/
  haltBugPending : Bool
  /-- `fault` (R111, R702) -/
  fault : Option Fault
  /-- high RAM, 127 bytes, index 0 at 0xFF80 (R112) -/
  hram : Mem
  /-- R120 to R123 -/
  timer : Timer
  /-- R130 to R138 -/
  lcd : Lcd
  /-- work RAM, 8192 bytes, index 0 at 0xC000 and at 0xE000 (R140) -/
  wram : Mem
  /-- `boot_disabled` (R141) -/
  bootDisabled : Bool
  /-- `BOOT_ROM`, 256 bytes, read-only (R9, R141) -/
  bootRom : Mem
  /-- R142 -/
  cart : Cart
  /-- the index of the next cycle to simulate (R145) -/
  cycles : Nat
  /-- R9 -/
  params : Params
  deriving DecidableEq, Repr

/-- The register file of 70_reset_and_hazards.md R901. -/
def Regs.reset : Regs :=
  { a := 0, f := { z := false, n := false, h := false, c := false }, b := 0, c := 0, d := 0, e := 0, h := 0, l := 0 }

/-- The timer of R901. -/
def Timer.reset : Timer := { tcount := 0, tima := 0, tma := 0, tac := 0 }

/-- The display controller of R901, its memories holding `vram` and `oam`. -/
def Lcd.reset (vram oam : Mem) : Lcd :=
  { lcdc := 0, statEn := 0, lycEq := false, mode := .hblank, scy := 0, scx := 0, ly := 0, lyc := 0, dma := 0, bgp := 0,
    obp0 := 0, obp1 := 0, wy := 0, wx := 0, vram := vram, oam := oam, lcdNext := .halted, winLine := 0,
    frameBuild := zeroFrame, frameOut := zeroFrame, dmaSrc := 0, dmaIndex := 160 }

/-- An MBC0 cartridge of 32768 zero bytes: header byte 0x147 is 0, so the loader accepts it (20_memory.md R225). -/
def Cart.blank : Cart :=
  { kind := .mbc0, romSize := 32768, rom := [], ramSize := 0, ram := [], ramEnable := false, romBank5 := 1, bank2 := 0,
    bankMode := false }

/-- The machine right after reset: 70_reset_and_hazards.md R901, launched with `BOOT_MODE = RUN_BOOT_ROM`, a boot ROM, a
cartridge and an `INIT_MEM` with nothing listed, and the two open behaviour parameters left open. Log entries 1, 2, 4. -/
def State.reset : State :=
  { regs := Regs.reset, pc := 0, sp := 0, ime := false, ie := 0, iflag := 0, nextCycle := .cycle 0,
    imePending := false, haltBugPending := false, fault := none, hram := [], timer := Timer.reset,
    lcd := Lcd.reset [] [], wram := [], bootDisabled := false, bootRom := [], cart := Cart.blank, cycles := 0,
    params := { eiDelay := Config.eiDelay, haltBug := Config.haltBug } }

end Sys2Proof.Machine
end

