-- ==== Sys2Proof/Machine/Mem.lean ====
section
/-! DEFINITION. Byte stores: the one way a RAM or ROM is read, written and filled, and their canonical form
(20_memory.md R214). Bounds are the callers': each device checks its own window. -/

namespace Sys2Proof.Machine

/-- The byte at index `i`. -/
def memRead : Mem → Nat → Byte
  | [], _ => unlistedByte
  | (k, v) :: rest, i => if k = i then v else memRead rest i

/-- The store without any entry at index `i`. -/
def memErase : Mem → Nat → Mem
  | [], _ => []
  | (k, v) :: rest, i => if k = i then memErase rest i else (k, v) :: memErase rest i

/-- An entry put in front of the first one with a larger index. -/
def memInsert : Mem → Nat → Byte → Mem
  | [], i, v => [(i, v)]
  | (k, w) :: rest, i, v => if i < k then (i, v) :: (k, w) :: rest else (k, w) :: memInsert rest i v

/-- Byte `v` written at index `i`; writing what an unlisted index reads as leaves the index unlisted. -/
def memWrite (m : Mem) (i : Nat) (v : Byte) : Mem :=
  if v = unlistedByte then memErase m i else memInsert (memErase m i) i v

/-- Every listed index is above `lo`, they rise strictly, and no listed byte is what an unlisted index reads as. -/
def memSortedFrom (lo : Nat) : Mem → Bool
  | [] => true
  | (k, v) :: rest => decide (lo ≤ k) && (v != unlistedByte) && memSortedFrom (k + 1) rest

/-- The canonical form of a store: equal contents are equal data. -/
def Mem.wf (m : Mem) : Bool := memSortedFrom 0 m

/-- Every listed index is inside a store of `size` bytes. -/
def memWithin (size : Nat) (m : Mem) : Bool := m.all fun cell => decide (cell.1 < size)

/-- The store of `size` bytes that holds the given bytes, the last one given for an index winning; a byte outside the
store is dropped. Canonical whatever the list. -/
def memOfCells (size : Nat) (cells : List Host.Cell) : Mem :=
  cells.foldl (fun m cell => if cell.1 < size then memWrite m cell.1 cell.2 else m) []

end Sys2Proof.Machine
end

