-- ==== Sys2Proof/Machine/Cartridge.lean ====
section
/-! DEFINITION. The cartridge: its loader and its two bank controllers (20_memory.md section 6), and the boot-ROM
multiplexer in front of it (section 5). -/

namespace Sys2Proof.Machine

/-! ## Bank controllers (R226, R230 to R237) -/

/-- The ROM byte that MBC1 maps at `a`, below 0x8000 (R235, R236). -/
def mbc1RomIndex (c : Cart) (a : Nat) : Nat :=
  if a < 0x4000 then ((if c.bankMode then c.bank2.toNat * 32 else 0) * 0x4000 + a) % c.romSize
  else ((c.bank2.toNat * 32 + c.romBank5.toNat) * 0x4000 + (a - 0x4000)) % c.romSize

/-- The cartridge RAM cell that MBC1 maps at `a`, in 0xA000 to 0xBFFF (R237). -/
def mbc1RamIndex (c : Cart) (a : Nat) : Nat :=
  ((if c.bankMode then c.bank2.toNat else 0) * 0x2000 + (a - 0xA000)) % c.ramSize

/-- MBC1 cartridge RAM can be accessed (R237). -/
def mbc1RamOpen (c : Cart) : Bool := c.ramEnable && decide (c.ramSize ≠ 0)

/-- A read of the cartridge; `none` is NO_DATA (R226, R235 to R237). -/
def cartRead (a : Nat) (c : Cart) : Option Byte :=
  match c.kind with
  | .mbc0 => if a < 0x8000 then some (memRead c.rom a) else none
  | .mbc1 =>
    if a < 0x8000 then some (memRead c.rom (mbc1RomIndex c a))
    else if 0xA000 ≤ a ∧ a < 0xC000 then
      if mbc1RamOpen c then some (memRead c.ram (mbc1RamIndex c a)) else some 0xFF
    else none

/-- A write of the cartridge: nothing on MBC0, a control register or a RAM cell on MBC1 (R226, R231 to R234, R237). -/
def cartWrite (a : Nat) (v : Byte) (c : Cart) : Cart :=
  match c.kind with
  | .mbc0 => c
  | .mbc1 =>
    if a < 0x2000 then { c with ramEnable := decide (v.toNat % 16 = 0xA) }
    else if a < 0x4000 then { c with romBank5 := if v.setWidth 5 = 0 then 1 else v.setWidth 5 }
    else if a < 0x6000 then { c with bank2 := v.setWidth 2 }
    else if a < 0x8000 then { c with bankMode := v.getLsbD 0 }
    else if 0xA000 ≤ a ∧ a < 0xC000 then
      if mbc1RamOpen c then { c with ram := memWrite c.ram (mbc1RamIndex c a) v } else c
    else c

/-! ## The boot-ROM multiplexer (R220, R221) -/

/-- The multiplexer forwards this address to the cartridge. -/
def muxForwards (a : Word) : Bool := decide (a.toNat ≤ 0x7FFF) || (decide (0xA000 ≤ a.toNat) && decide (a.toNat ≤ 0xBFFF))

/-- Reads (R220); `none` is NO_DATA. -/
def muxRead (a : Word) (s : State) : Option Byte :=
  if !s.bootDisabled && decide (a.toNat ≤ 0x00FF) then some (memRead s.bootRom a.toNat)
  else if muxForwards a then cartRead a.toNat s.cart
  else none

/-- Writes (R220): any write of 0xFF50 disables the boot ROM for good. -/
def muxWrite (a : Word) (v : Byte) (s : State) : State :=
  let s1 : State := if a = 0xFF50 then { s with bootDisabled := true } else s
  if muxForwards a then { s1 with cart := cartWrite a.toNat v s1.cart } else s1

/-! ## The loader (R225) -/

/-- The sizes R225 accepts for a banked image: a power of two in 32768 to 2097152. -/
def mbc1RomSizes : List Nat := [32768, 65536, 131072, 262144, 524288, 1048576, 2097152]

/-- `RAM_SIZE` from header byte 0x149 (R225). -/
def ramSizeOfHeader (r : Byte) : Option Nat :=
  match r.toNat with
  | 0 => some 0
  | 1 => some 2048
  | 2 => some 8192
  | 3 => some 32768
  | _ => none

/-- The cartridge with its controller at launch (10_state.md R142). -/
def freshCart (kind : CartKind) (romSize : Nat) (rom : Mem) (ramSize : Nat) (ram : Mem) : Cart :=
  { kind := kind, romSize := romSize, rom := rom, ramSize := ramSize, ram := ram, ramEnable := false, romBank5 := 1,
    bank2 := 0, bankMode := false }

/-- Cartridge load (R225): an image of `romSize` bytes and the initial contents of cartridge RAM. A refusal names the
header byte and the length (60_exceptions.md R701). -/
def loadCart (romSize : Nat) (image ram : List Host.Cell) : Except Refusal Cart :=
  let rom := memOfCells romSize image
  let t := memRead rom 0x147
  let refuse : Except Refusal Cart := .error (.cartridgeUnsupported t romSize)
  if romSize < 0x150 then refuse
  else if t = 0x00 then
    if romSize ≠ 32768 then refuse else .ok (freshCart .mbc0 romSize rom 0 [])
  else if t = 0x01 ∨ t = 0x02 ∨ t = 0x03 then
    if romSize ∉ mbc1RomSizes then refuse
    else match ramSizeOfHeader (memRead rom 0x149) with
      | none => refuse
      | some ramSize => .ok (freshCart .mbc1 romSize rom ramSize (memOfCells ramSize ram))
  else refuse

end Sys2Proof.Machine
end

