-- ==== Sys2Proof/Machine/Bits.lean ====
section
/-! DEFINITION. The bit-algebra primitives of 00_scope.md R13 and the conversions of R11. -/

namespace Sys2Proof.Machine

/-! ## Conversions (R11) -/

/-- `hi ++ lo`: `hi * 256 + lo`. -/
def word (hi lo : Byte) : Word := hi ++ lo

/-- `v[15:8]`. -/
def hiByte (v : Word) : Byte := v.extractLsb' 8 8

/-- `v[7:0]`. -/
def loByte (v : Word) : Byte := v.extractLsb' 0 8

/-- `sext_16(v)`: the byte read as two's complement. -/
def sext16 (v : Byte) : Word := v.signExtend 16

/-! ## Bit-algebra primitives (R13)

The values, on vectors that carry their width. The checked forms below them are on numbers, with the width written out,
and answer `none` where R13 rejects an argument. -/

/-- `set(v, i, b)`: v with bit i replaced by b; v itself for an index outside the width. -/
def setBit {size : Nat} (v : BitVec size) (i : Nat) (b : Bool) : BitVec size :=
  if b then v ||| BitVec.twoPow size i else v &&& ~~~(BitVec.twoPow size i)

/-- `rotate(size, v, d)`: the left rotation by `d mod size`, so a negative d rotates right. -/
def rotate {size : Nat} (v : BitVec size) (d : Int) : BitVec size :=
  v.rotateLeft (d % size).toNat

/-- `signExtend8(v) = sext_32(v)`. -/
def signExtend8 (v : Byte) : BitVec 32 := v.signExtend 32

/-- `reverse8(v)`: bit i is `v[7 - i]`. -/
def reverse8 (v : Byte) : Byte := v.reverse

/-! ### The checked forms -/

/-- The word size of the bit-algebra primitives. PRESUMED: the source's primitives work on 32-bit words, the width of
`sext_32` and of a vector's storage word (R13, 60_exceptions.md R850). Log entry 11. -/
def algebraWordSize : Nat := 32

/-- `v` is no wider than its stated width, and that width is inside the word size (R13). -/
def fitsWidth (size v : Nat) : Bool := decide (size ≤ algebraWordSize) && decide (v < 2 ^ size)

/-- `mask(i) = 2^i` within a width, rejecting a width outside the word size and an index outside the width. -/
def bitMask? (size i : Nat) : Option Nat := if fitsWidth size 0 ∧ i < size then some (2 ^ i) else none

/-- `test(v, i) = v[i]`, rejecting a width outside the word size, a wider value and an index outside the width. -/
def testBit? (size v i : Nat) : Option Bool := if fitsWidth size v ∧ i < size then some (v.testBit i) else none

/-- `set(v, i, b)`, rejecting a width outside the word size, a wider value and an index outside the width. -/
def setBit? (size v i : Nat) (b : Bool) : Option Nat :=
  if fitsWidth size v ∧ i < size then some (setBit (BitVec.ofNat size v) i b).toNat else none

/-- `clip(n, v) = v mod 2^n`, rejecting a width outside the word size and a value wider than the word. DESIGN CHOICE: a
width of 0 is inside the word size, and clips to 0. Log entry 11. -/
def clip? (n v : Nat) : Option Nat :=
  if n ≤ algebraWordSize ∧ fitsWidth algebraWordSize v then some (v % 2 ^ n) else none

/-- `extract(v, start, n) = (v >> start) mod 2^n`, rejecting a start outside the word, a width outside the word size and
a value wider than the word. DESIGN CHOICE: R13 leaves open whether a start and a width that are each in range but whose
sum runs past the word (start 31, n 2) are rejected; here they are accepted, and the bits past the word are 0, as the
rule's formula gives them. A width of 0 is accepted and extracts 0. Log entry 11. -/
def extract? (v start n : Nat) : Option Nat :=
  if fitsWidth algebraWordSize v ∧ start < algebraWordSize ∧ n ≤ algebraWordSize then some (v / 2 ^ start % 2 ^ n) else none

/-- `rotate(size, v, d)`, rejecting a width outside the word size and a wider value. A width of 0, for which `d mod size`
does not exist, is outside it (DEDUCED, log entry 11). -/
def rotate? (size v : Nat) (d : Int) : Option Nat :=
  if 0 < size ∧ fitsWidth size v then some (rotate (BitVec.ofNat size v) d).toNat else none

/-- `signExtend8(v)`, rejecting a value wider than 8 bits. -/
def signExtend8? (v : Nat) : Option Nat := if fitsWidth 8 v then some (signExtend8 (BitVec.ofNat 8 v)).toNat else none

/-- `reverse8(v)`, rejecting a value wider than 8 bits. -/
def reverse8? (v : Nat) : Option Nat := if fitsWidth 8 v then some (reverse8 (BitVec.ofNat 8 v)).toNat else none

end Sys2Proof.Machine
end

