-- ==== Sys2Proof/Machine/PixelLine.lean ====
section
/-! DEFINITION. Bit vectors and pixel lines (60_exceptions.md section 10). A vector of a checked length is a `BitVec n`,
so operands of unequal length cannot be written; the checked forms on vectors of any length answer `none` where the
spec has the call fail. -/

namespace Sys2Proof.Machine

/-! ## Bit vectors (R850 to R854) -/

/-- `extractZeroExtended(start, size)`: bit j is `v[start + j]`, 0 outside (R852). -/
def extractZeroExtended {n : Nat} (v : BitVec n) (start : Int) (size : Nat) : BitVec size :=
  if start < 0 then v.setWidth size <<< (-start).toNat else (v >>> start.toNat).setWidth size

/-- `extractWrapped(start, size)`: bit j is `v[(start + j) mod n]` (R852). -/
def extractWrapped {n : Nat} (v : BitVec n) (start : Int) (size : Nat) : BitVec size :=
  (v.replicate (size / n + 2) >>> (start % n).toNat).setWidth size

/-- `shift(d)`: bit j is `v[j - d]`, 0 outside (R854). -/
def shiftBits {n : Nat} (v : BitVec n) (d : Int) : BitVec n := extractZeroExtended v (-d) n

/-- A vector with its length, for the checks of R850 and R851. -/
structure AnyVector where
  length : Nat
  bits : BitVec length
  deriving DecidableEq, Repr

/-- A length the construction accepts: a positive multiple of 32 (R850). -/
def vectorLengthOk (n : Nat) : Bool := decide (0 < n) && decide (n % 32 = 0)

/-- Construction of a vector, rejecting a length that R850 does not accept. DESIGN CHOICE: R850 does not say what a
construction fills the vector with; here its contents are given as a number, whose bit i is bit i of the vector and whose
bits at and above n are dropped. Log entry 12. -/
def anyVector? (n : Nat) (bits : Nat) : Option AnyVector :=
  if vectorLengthOk n then some { length := n, bits := BitVec.ofNat n bits } else none

/-- `not(v)` (R851). -/
def anyNot (v : AnyVector) : AnyVector := { v with bits := ~~~v.bits }

/-- A bitwise operation of two vectors, which fails on unequal lengths (R851). -/
def anyBitwise? (op : (n : Nat) → BitVec n → BitVec n → BitVec n) (v w : AnyVector) : Option AnyVector :=
  if h : w.length = v.length then some { length := v.length, bits := op v.length v.bits (w.bits.cast h) } else none

/-- `and(v, w)` (R851). -/
def anyAnd? (v w : AnyVector) : Option AnyVector := anyBitwise? (fun _ x y => x &&& y) v w
/-- `or(v, w)` (R851). -/
def anyOr? (v w : AnyVector) : Option AnyVector := anyBitwise? (fun _ x y => x ||| y) v w
/-- `xor(v, w)` (R851). -/
def anyXor? (v w : AnyVector) : Option AnyVector := anyBitwise? (fun _ x y => x ^^^ y) v w

/-- `extractZeroExtended` of any vector, rejecting a size that is not a positive multiple of 32 (R852). -/
def anyExtractZeroExtended? (v : AnyVector) (start : Int) (size : Nat) : Option AnyVector :=
  if vectorLengthOk size then some { length := size, bits := extractZeroExtended v.bits start size } else none

/-- `extractWrapped` of any vector, rejecting a size that is not a positive multiple of 32 (R852). -/
def anyExtractWrapped? (v : AnyVector) (start : Int) (size : Nat) : Option AnyVector :=
  if vectorLengthOk size then some { length := size, bits := extractWrapped v.bits start size } else none

/-! ## Pixel lines (R855) -/

/-- `shift` of all three planes. -/
def lineShift {n : Nat} (p : PixelLine n) (d : Int) : PixelLine n :=
  { msb := shiftBits p.msb d, lsb := shiftBits p.lsb d, opacity := shiftBits p.opacity d }

/-- `extractWrapped` of all three planes. -/
def lineExtractWrapped {n : Nat} (p : PixelLine n) (start : Int) (size : Nat) : PixelLine size :=
  { msb := extractWrapped p.msb start size, lsb := extractWrapped p.lsb start size,
    opacity := extractWrapped p.opacity start size }

/-- `extractZeroExtended` of all three planes. -/
def lineExtractZeroExtended {n : Nat} (p : PixelLine n) (start : Int) (size : Nat) : PixelLine size :=
  { msb := extractZeroExtended p.msb start size, lsb := extractZeroExtended p.lsb start size,
    opacity := extractZeroExtended p.opacity start size }

/-- The bits below `pos` of `v`, the others of `w`. -/
def joinBits {n : Nat} (v w : BitVec n) (pos : Nat) : BitVec n :=
  (v &&& ~~~(BitVec.allOnes n <<< pos)) ||| (w &&& (BitVec.allOnes n <<< pos))

/-- `join(other, pos)`: pixels below `pos` from self, the others from `other`. -/
def lineJoin {n : Nat} (p q : PixelLine n) (pos : Nat) : PixelLine n :=
  { msb := joinBits p.msb q.msb pos, lsb := joinBits p.lsb q.lsb pos, opacity := joinBits p.opacity q.opacity pos }

/-- `join(other, pos)`, rejecting a position past the end. -/
def lineJoin? {n : Nat} (p q : PixelLine n) (pos : Nat) : Option (PixelLine n) :=
  if pos ≤ n then some (lineJoin p q pos) else none

/-- `below(other, mask)`: color planes from `other` under the mask, opacities united. -/
def lineBelowMask {n : Nat} (p q : PixelLine n) (mask : BitVec n) : PixelLine n :=
  { msb := (p.msb &&& ~~~mask) ||| (q.msb &&& mask), lsb := (p.lsb &&& ~~~mask) ||| (q.lsb &&& mask),
    opacity := p.opacity ||| q.opacity }

/-- `below(other)`: `below(other, other.opacity)`. -/
def lineBelow {n : Nat} (p q : PixelLine n) : PixelLine n := lineBelowMask p q q.opacity

/-! ## Palettes (R857) -/

/-- The pixels whose color index is `c`. -/
def pixelsOfColor {n : Nat} (p : PixelLine n) (c : Nat) : BitVec n :=
  match c with
  | 0 => ~~~p.msb &&& ~~~p.lsb
  | 1 => ~~~p.msb &&& p.lsb
  | 2 => p.msb &&& ~~~p.lsb
  | _ => p.msb &&& p.lsb

/-- One plane of the result of `mapColors`: the union of the pixels of each color c whose palette bit `2c + k` is 1. -/
def mappedPlane {n : Nat} (p : PixelLine n) (palette : Byte) (k : Nat) : BitVec n :=
  let part (c : Nat) : BitVec n := if palette.getLsbD (2 * c + k) then pixelsOfColor p c else 0
  part 0 ||| part 1 ||| part 2 ||| part 3

/-- `mapColors(p)`: color index c becomes `p[2c+1:2c]`, opacity unchanged. -/
def mapColors {n : Nat} (p : PixelLine n) (palette : Byte) : PixelLine n :=
  { msb := mappedPlane p palette 1, lsb := mappedPlane p palette 0, opacity := p.opacity }

/-- The color index of pixel x. -/
def pixelColor {n : Nat} (p : PixelLine n) (x : Nat) : Nat :=
  2 * (p.msb.getLsbD x).toNat + (p.lsb.getLsbD x).toNat

/-! ## Frames (R859) -/

/-- Byte k of a 160-pixel plane: bit x of the plane is bit `x mod 8` of byte `x div 8`. -/
def planeBytes (v : BitVec 160) : List Byte := (List.range 20).map fun k => v.extractLsb' (8 * k) 8

/-- A line's external form: its msb bytes, then its lsb bytes. -/
def serializeLine (p : PixelLine 160) : List Byte := planeBytes p.msb ++ planeBytes p.lsb

/-- A frame's external form, line by line. -/
def serializeFrame (f : Frame) : List Byte := f.toList.flatMap serializeLine

end Sys2Proof.Machine
end

