-- ==== Sys2Proof/Machine/Render.lean ====
section
/-! DEFINITION. Rendering one line (60_exceptions.md section 8). Reads video RAM and OAM directly, not through the bus
(R829). -/

namespace Sys2Proof.Machine

/-- A bit of LCDC (10_state.md R130). -/
def lcdcBit (l : Lcd) (i : Nat) : Bool := l.lcdc.getLsbD i

/-- The video RAM byte at an address of the CPU's map, 0x8000 up. -/
def vramAt (l : Lcd) (addr : Nat) : Byte := memRead l.vram (addr - 0x8000)

/-- The address of background and window tile `t` (R820). -/
def bgTileBase (l : Lcd) (t : Byte) : Nat :=
  if lcdcBit l 4 then 0x8000 + 16 * t.toNat else (0x9000 + 16 * t.toInt).toNat

/-- One byte plane of a 256-pixel map line, 8 pixels a tile: pixel 8k + j is bit j of `f k` (R821). -/
def plane256 (f : Nat → Byte) : BitVec 256 :=
  (List.range 32).foldl (fun acc k => acc ||| ((f k).setWidth 256 <<< (8 * k))) 0

/-- The 256-pixel line of the tile map at address `map`, row `by_` (R821). -/
def mapLine256 (l : Lcd) (map : Nat) (by_ : Byte) : PixelLine 256 :=
  let rowAddr (k : Nat) : Nat :=
    bgTileBase l (vramAt l (map + 32 * (by_.toNat / 8) + k)) + 2 * (by_.toNat % 8)
  let lsb := plane256 fun k => reverse8 (vramAt l (rowAddr k))
  let msb := plane256 fun k => reverse8 (vramAt l (rowAddr k + 1))
  { msb := msb, lsb := lsb, opacity := msb ||| lsb }

/-- The background of display line `y` (R821). -/
def bgLine (l : Lcd) (y : Byte) : PixelLine 160 :=
  let map := if lcdcBit l 3 then 0x9C00 else 0x9800
  mapColors (lineExtractWrapped (mapLine256 l map (y + l.scy)) l.scx.toNat 160) l.bgp

/-- The window is drawn on line `y` (R822). -/
def windowDrawn (l : Lcd) (y : Byte) : Bool :=
  lcdcBit l 5 && lcdcBit l 0 && decide (7 ≤ l.wx.toNat) && decide (l.wx.toNat ≤ 166) && decide (l.wy.toNat ≤ y.toNat)

/-- The window's own line, from the tile map's row `win_line`, in place (R822). -/
def windowLine (l : Lcd) : PixelLine 160 :=
  let wmap := if lcdcBit l 6 then 0x9C00 else 0x9800
  mapColors (lineShift (lineExtractZeroExtended (mapLine256 l wmap l.winLine) 0 160) ((l.wx.toNat : Int) - 7)) l.bgp

/-- Background and window composed (R821, R822), or the all-zero line (R828). -/
def bgWinLine (l : Lcd) (y : Byte) : PixelLine 160 :=
  if lcdcBit l 0 then
    if windowDrawn l y then lineJoin (bgLine l y) (windowLine l) (l.wx.toNat - 7) else bgLine l y
  else PixelLine.zero 160

/-! ## Sprites (R823 to R826) -/

/-- An OAM entry (R823). -/
structure Sprite where
  y : Byte
  x : Byte
  tile : Byte
  attr : Byte
  deriving DecidableEq, Repr

/-- OAM entry `i` (R823). -/
def spriteAt (l : Lcd) (i : Nat) : Sprite :=
  { y := memRead l.oam (4 * i), x := memRead l.oam (4 * i + 1), tile := memRead l.oam (4 * i + 2),
    attr := memRead l.oam (4 * i + 3) }

/-- Sprite height (R823). -/
def spriteHeight (l : Lcd) : Nat := if lcdcBit l 2 then 16 else 8

/-- `byte0 - 16 <= y < byte0 - 16 + h` (R824). -/
def spriteOnLine (h : Nat) (y : Byte) (s : Sprite) : Bool :=
  decide (s.y.toNat ≤ y.toNat + 16) && decide (y.toNat + 16 < s.y.toNat + h)

/-- A sprite put behind every one of smaller or equal X: a stable order by X (R824). -/
def insertByX (s : Sprite) : List Sprite → List Sprite
  | [] => [s]
  | t :: rest => if s.x.toNat ≤ t.x.toNat then s :: t :: rest else t :: insertByX s rest

/-- The sprites of line `y`, the highest priority first: the first ten in OAM order that are on the line, by X and then
by OAM index (R824). -/
def selectSprites (l : Lcd) (y : Byte) : List Sprite :=
  if lcdcBit l 1 then
    ((((List.range 40).map (spriteAt l)).filter (spriteOnLine (spriteHeight l) y)).take 10).foldr insertByX []
  else []

/-- The line of one selected sprite (R825). -/
def spriteLine (l : Lcd) (y : Byte) (s : Sprite) : PixelLine 160 :=
  let h := spriteHeight l
  let row := y.toNat + 16 - s.y.toNat
  let row := if s.attr.getLsbD 6 then h - 1 - row else row
  let t : Byte := if h = 16 then s.tile &&& 0xFE else s.tile
  let lo := vramAt l (0x8000 + 16 * t.toNat + 2 * row)
  let hi := vramAt l (0x8000 + 16 * t.toNat + 2 * row + 1)
  let lo := if s.attr.getLsbD 5 then lo else reverse8 lo
  let hi := if s.attr.getLsbD 5 then hi else reverse8 hi
  let line : PixelLine 160 := { msb := hi.setWidth 160, lsb := lo.setWidth 160, opacity := (hi ||| lo).setWidth 160 }
  mapColors (lineShift line ((s.x.toNat : Int) - 8)) (if s.attr.getLsbD 4 then l.obp1 else l.obp0)

/-- A sprite layer: the selected sprites whose BEHIND_BG bit is `behind`, from the lowest priority to the highest, each
over those before it (R826). -/
def spriteLayer (l : Lcd) (y : Byte) (behind : Bool) : PixelLine 160 :=
  ((selectSprites l y).filter fun s => s.attr.getLsbD 7 == behind).foldr
    (fun s layer => lineBelow layer (spriteLine l y s)) (PixelLine.zero 160)

/-! ## Composition (R827) -/

/-- `render_line(y)`: the finished line. -/
def renderLine (l : Lcd) (y : Byte) : PixelLine 160 :=
  let bgwin := bgWinLine l y
  let bgs := spriteLayer l y true
  let fg := spriteLayer l y false
  let l1 := lineBelowMask bgs bgwin (bgwin.opacity ||| ~~~bgs.opacity)
  lineBelow l1 fg

/-- `win_line` after line `y` is rendered (R822). -/
def nextWinLine (l : Lcd) (y : Byte) : Byte := if windowDrawn l y then l.winLine + 1 else l.winLine

end Sys2Proof.Machine
end

