-- ==== Sys2Proof/Machine/Timer.lean ====
section
/-! DEFINITION. Interrupt requests, and the timer (60_exceptions.md R720 to R723 and section 6). -/

namespace Sys2Proof.Machine

/-! ## Requests (R721) -/

/-- `request(i)`: sets `IF[i]` and nothing else. -/
def request (i : Nat) (s : State) : State := { s with iflag := setBit s.iflag i true }

/-- Interrupt source numbers (R720). -/
def irqVblank : Nat := 0
def irqLcdStat : Nat := 1
def irqTimer : Nat := 2

/-! ## The timer (R760 to R765) -/

/-- The critical bit of `tcount` that TAC[1:0] selects (R761). -/
def criticalBit (tac : BitVec 3) : Nat :=
  match tac.toNat % 4 with
  | 0 => 9
  | 1 => 3
  | 2 => 5
  | _ => 7

/-- `state() = TAC[2] and tcount[sel(TAC[1:0])]` (R761). -/
def timerState (t : Timer) : Bool := t.tac.getLsbD 2 && t.tcount.getLsbD (criticalBit t.tac)

/-- `tick()` (R763). -/
def timerTick (s : State) : State :=
  if s.timer.tima = 0xFF then request irqTimer { s with timer := { s.timer with tima := s.timer.tma } }
  else { s with timer := { s.timer with tima := s.timer.tima + 1 } }

/-- The new counter and control values are taken, and a falling edge of the timer state ticks (R762, R764, R765). -/
def timerUpdate (tcount : Word) (tac : BitVec 3) (s : State) : State :=
  let t : Timer := { s.timer with tcount := tcount, tac := tac }
  let s' : State := { s with timer := t }
  if timerState s.timer && !timerState t then timerTick s' else s'

/-- The timer's step in one cycle (R762). -/
def timerStep (s : State) : State := timerUpdate (s.timer.tcount + 4) s.timer.tac s

/-! ## The timer as a device (20_memory.md R218) -/

/-- Reads of 0xFF04 to 0xFF07 (R760); `none` is NO_DATA. -/
def timerRead (a : Word) (s : State) : Option Byte :=
  if a = 0xFF04 then some (hiByte s.timer.tcount)
  else if a = 0xFF05 then some s.timer.tima
  else if a = 0xFF06 then some s.timer.tma
  else if a = 0xFF07 then some (0xF8 ||| s.timer.tac.setWidth 8)
  else none

/-- Writes of 0xFF04 to 0xFF07 (R764, R765). -/
def timerWrite (a : Word) (v : Byte) (s : State) : State :=
  if a = 0xFF04 then timerUpdate 0 s.timer.tac s
  else if a = 0xFF05 then { s with timer := { s.timer with tima := v } }
  else if a = 0xFF06 then { s with timer := { s.timer with tma := v } }
  else if a = 0xFF07 then timerUpdate s.timer.tcount (v.setWidth 3) s
  else s

end Sys2Proof.Machine
end

