-- ==== Sys2Proof/Machine/Lcd.lean ====
section
/-! DEFINITION. The display controller: its registers as a device, and the scanline state machine (60_exceptions.md
section 7). -/

namespace Sys2Proof.Machine

/-! ## Mode and line (R801, R806) -/

/-- The number STAT[1:0] reads (10_state.md R131). -/
def modeCode : LcdMode → Nat
  | .hblank => 0
  | .vblank => 1
  | .oamScan => 2
  | .transfer => 3

/-- `enter_mode(m)`: a mode other than 3 requests LCD_STAT when its enable STAT[3 + m] is set (R801). -/
def enterMode (m : LcdMode) (s : State) : State :=
  let s' : State := { s with lcd := { s.lcd with mode := m } }
  if m ≠ .transfer ∧ s.lcd.statEn.getLsbD (modeCode m) then request irqLcdStat s' else s'

/-- `check_lyc()` (R806). -/
def checkLyc (s : State) : State :=
  let eq : Bool := s.lcd.ly == s.lcd.lyc
  let s' : State := { s with lcd := { s.lcd with lycEq := eq } }
  if eq && s.lcd.statEn.getLsbD 3 then request irqLcdStat s' else s'

/-- `setLY(v)` (R801). -/
def setLy (v : Byte) (s : State) : State := checkLyc { s with lcd := { s.lcd with ly := v } }

/-- `lcd_next` set to a cycle. -/
def setLcdNext (n : NextCycle) (s : State) : State := { s with lcd := { s.lcd with lcdNext := n } }

/-! ## The state machine (R800, R802, R804, R805) -/

/-- Display start (R802). -/
def lcdStart (s : State) : State :=
  let s1 := setLy 0 s
  let s2 : State := { s1 with lcd := { s1.lcd with winLine := 0 } }
  setLcdNext (.cycle (s.cycles + 20)) (enterMode .oamScan s2)

/-- End of mode 2: mode 3 is entered and the line is rendered (R804, R827). -/
def lcdEndOamScan (s : State) : State :=
  let s1 := enterMode .transfer s
  let l := s1.lcd
  let s2 : State := { s1 with lcd := { l with frameBuild := l.frameBuild.setIfInBounds l.ly.toNat (renderLine l l.ly),
                                              winLine := nextWinLine l l.ly } }
  setLcdNext (.cycle (s.cycles + 43)) s2

/-- End of mode 3 (R804). -/
def lcdEndTransfer (s : State) : State := setLcdNext (.cycle (s.cycles + 51)) (enterMode .hblank s)

/-- End of mode 0: the next line, or V-blank, where the built frame is exposed (R804, R805). -/
def lcdEndHblank (s : State) : State :=
  if s.lcd.ly = 143 then
    let s1 := request irqVblank (enterMode .vblank (setLy 144 s))
    let s2 : State := { s1 with lcd := { s1.lcd with frameOut := s1.lcd.frameBuild } }
    setLcdNext (.cycle (s.cycles + 114)) s2
  else setLcdNext (.cycle (s.cycles + 20)) (enterMode .oamScan (setLy (s.lcd.ly + 1) s))

/-- End of a V-blank line: the next one, or the next frame (R804). -/
def lcdEndVblankLine (s : State) : State :=
  if s.lcd.ly = 153 then
    let s1 := setLy 0 s
    let s2 : State := { s1 with lcd := { s1.lcd with winLine := 0 } }
    setLcdNext (.cycle (s.cycles + 20)) (enterMode .oamScan s2)
  else setLcdNext (.cycle (s.cycles + 114)) (setLy (s.lcd.ly + 1) s)

/-- The state-machine step of one cycle (R804). -/
def lcdStep (s : State) : State :=
  if lcdcBit s.lcd 7 then
    match s.lcd.lcdNext with
    | .halted => lcdStart s
    | .cycle n =>
      if s.cycles = n then
        match s.lcd.mode with
        | .oamScan => lcdEndOamScan s
        | .transfer => lcdEndTransfer s
        | .hblank => lcdEndHblank s
        | .vblank => lcdEndVblankLine s
      else s
  else s

/-! ## Register writes -/

/-- A write of LCDC: all 8 bits are stored, and clearing bit 7 stops the display, without the mode-0 request (R803). -/
def writeLcdc (v : Byte) (s : State) : State :=
  let s1 : State := { s with lcd := { s.lcd with lcdc := v } }
  if lcdcBit s.lcd 7 && !v.getLsbD 7 then
    setLcdNext .halted (setLy 0 { s1 with lcd := { s1.lcd with mode := .hblank } })
  else s1

/-- A write of DMA: a copy starts, or starts again (R840). -/
def writeDma (v : Byte) (s : State) : State :=
  { s with lcd := { s.lcd with dma := v, dmaSrc := word v 0, dmaIndex := 0 } }

/-! ## The display as a device (20_memory.md R217; 60_exceptions.md R807, R808, R813) -/

/-- STAT as read: `0x80 or STAT[6:3] * 8 or STAT[2] * 4 or mode` (R808). -/
def statByte (l : Lcd) : Byte :=
  BitVec.ofNat 8 (0x80 + l.statEn.toNat * 8 + l.lycEq.toNat * 4 + modeCode l.mode)

/-- Reads of video RAM, OAM and 0xFF40 to 0xFF4B; `none` is NO_DATA. -/
def lcdRead (a : Word) (s : State) : Option Byte :=
  if 0x8000 ≤ a.toNat ∧ a.toNat < 0xA000 then some (memRead s.lcd.vram (a.toNat - 0x8000))
  else if 0xFE00 ≤ a.toNat ∧ a.toNat < 0xFEA0 then some (memRead s.lcd.oam (a.toNat - 0xFE00))
  else if a = 0xFF40 then some s.lcd.lcdc
  else if a = 0xFF41 then some (statByte s.lcd)
  else if a = 0xFF42 then some s.lcd.scy
  else if a = 0xFF43 then some s.lcd.scx
  else if a = 0xFF44 then some s.lcd.ly
  else if a = 0xFF45 then some s.lcd.lyc
  else if a = 0xFF46 then some s.lcd.dma
  else if a = 0xFF47 then some s.lcd.bgp
  else if a = 0xFF48 then some s.lcd.obp0
  else if a = 0xFF49 then some s.lcd.obp1
  else if a = 0xFF4A then some s.lcd.wy
  else if a = 0xFF4B then some s.lcd.wx
  else none

/-- Writes of video RAM, OAM and 0xFF40 to 0xFF4B; LY ignores its write. -/
def lcdWrite (a : Word) (v : Byte) (s : State) : State :=
  if 0x8000 ≤ a.toNat ∧ a.toNat < 0xA000 then
    { s with lcd := { s.lcd with vram := memWrite s.lcd.vram (a.toNat - 0x8000) v } }
  else if 0xFE00 ≤ a.toNat ∧ a.toNat < 0xFEA0 then
    { s with lcd := { s.lcd with oam := memWrite s.lcd.oam (a.toNat - 0xFE00) v } }
  else if a = 0xFF40 then writeLcdc v s
  else if a = 0xFF41 then { s with lcd := { s.lcd with statEn := v.extractLsb' 3 4 } }
  else if a = 0xFF42 then { s with lcd := { s.lcd with scy := v } }
  else if a = 0xFF43 then { s with lcd := { s.lcd with scx := v } }
  else if a = 0xFF45 then checkLyc { s with lcd := { s.lcd with lyc := v } }
  else if a = 0xFF46 then writeDma v s
  else if a = 0xFF47 then { s with lcd := { s.lcd with bgp := v } }
  else if a = 0xFF48 then { s with lcd := { s.lcd with obp0 := v } }
  else if a = 0xFF49 then { s with lcd := { s.lcd with obp1 := v } }
  else if a = 0xFF4A then { s with lcd := { s.lcd with wy := v } }
  else if a = 0xFF4B then { s with lcd := { s.lcd with wx := v } }
  else s

end Sys2Proof.Machine
end

