-- ==== Sys2Proof/Machine/Bus.lean ====
section
/-! DEFINITION. The bus (20_memory.md sections 1 to 4): the devices in their registration order (R202), a read that takes
the first answer and else the open-bus value (R205), and a write broadcast to all (R206); the host's checked accesses;
and the display's step, whose DMA unit reads through the bus (60_exceptions.md R800, R840). -/

namespace Sys2Proof.Machine

/-! ## The CPU device (R216) -/

/-- Reads of IF, high RAM and IE; `none` is NO_DATA. -/
def cpuDevRead (a : Word) (s : State) : Option Byte :=
  if a = 0xFF0F then some (0xE0 ||| s.iflag.setWidth 8)
  else if 0xFF80 ≤ a.toNat ∧ a.toNat < 0xFFFF then some (memRead s.hram (a.toNat - 0xFF80))
  else if a = 0xFFFF then some s.ie
  else none

/-- Writes of IF, high RAM and IE. -/
def cpuDevWrite (a : Word) (v : Byte) (s : State) : State :=
  if a = 0xFF0F then { s with iflag := v.setWidth 5 }
  else if 0xFF80 ≤ a.toNat ∧ a.toNat < 0xFFFF then { s with hram := memWrite s.hram (a.toNat - 0xFF80) v }
  else if a = 0xFFFF then { s with ie := v }
  else s

/-! ## Work RAM and its echo (R214, R215): two views of one store -/

/-- A windowed view of work RAM at `[start, stop)`: reads. -/
def wramViewRead (start stop : Nat) (a : Word) (s : State) : Option Byte :=
  if start ≤ a.toNat ∧ a.toNat < stop then some (memRead s.wram (a.toNat - start)) else none

/-- A windowed view of work RAM at `[start, stop)`: writes. -/
def wramViewWrite (start stop : Nat) (a : Word) (v : Byte) (s : State) : State :=
  if start ≤ a.toNat ∧ a.toNat < stop then { s with wram := memWrite s.wram (a.toNat - start) v } else s

/-! ## The bus (R202, R205, R206) -/

/-- The value of an address that no device claims. -/
def openBus : Byte := 0xFF

/-- The first device's answer, in registration order. -/
def deviceRead (a : Word) (s : State) : Option Byte :=
  (cpuDevRead a s).or <| (muxRead a s).or <| (lcdRead a s).or <| (wramViewRead 0xC000 0xE000 a s).or <|
    (wramViewRead 0xE000 0xFE00 a s).or (timerRead a s)

/-- `MemRead(a, 1)` (R205). -/
def busRead (a : Word) (s : State) : Byte := (deviceRead a s).getD openBus

/-- `MemWrite(a, 1, v)` (R206). -/
def busWrite (a : Word) (v : Byte) (s : State) : State :=
  timerWrite a v <| wramViewWrite 0xE000 0xFE00 a v <| wramViewWrite 0xC000 0xE000 a v <| lcdWrite a v <|
    muxWrite a v <| cpuDevWrite a v s

/-- `MemRead(a, 2)`, the low byte first (00_scope.md R11). -/
def busRead16 (a : Word) (s : State) : Word := word (busRead (a + 1) s) (busRead a s)

/-- `MemWrite(a, 2, v)`, the low byte first (00_scope.md R11). -/
def busWrite16 (a : Word) (v : Word) (s : State) : State := busWrite (a + 1) (hiByte v) (busWrite a (loByte v) s)

/-! ## Accesses with unchecked arguments (R201, R207): the host's -/

/-- A bus read of any number, rejecting one outside 0 to 0xFFFF. -/
def busReadChecked (a : Nat) (s : State) : Except Refusal Byte :=
  if a < 65536 then .ok (busRead (BitVec.ofNat 16 a) s) else .error .argumentRejected

/-- A bus write of any numbers, rejecting an address outside 0 to 0xFFFF or a value outside 0 to 0xFF. -/
def busWriteChecked (a v : Nat) (s : State) : Except Refusal State :=
  if a < 65536 ∧ v < 256 then .ok (busWrite (BitVec.ofNat 16 a) (BitVec.ofNat 8 v) s) else .error .argumentRejected

/-! ## The display's step: DMA, then the state machine -/

/-- The DMA sub-step (60_exceptions.md R840). -/
def dmaStep (s : State) : State :=
  if s.lcd.dmaIndex < 160 then
    let b := busRead (s.lcd.dmaSrc + BitVec.ofNat 16 s.lcd.dmaIndex) s
    { s with lcd := { s.lcd with oam := memWrite s.lcd.oam s.lcd.dmaIndex b, dmaIndex := s.lcd.dmaIndex + 1 } }
  else s

/-- The display's step of one cycle (60_exceptions.md R800). -/
def displayStep (s : State) : State := lcdStep (dmaStep s)

end Sys2Proof.Machine
end

