-- ==== Sys2Proof/Machine/Flags.lean ====
section
/-! DEFINITION. Register F as a byte, and every ALU function with the flags it returns: 41_alu8.md R450 to R454,
42_alu16.md R501 and R502, 43_rotate_shift_bit.md R521, DAA (R483). Each computes exactly, in Nat or Int, and narrows
at the end. The ALU writes no state. -/

namespace Sys2Proof.Machine

/-! ## Register F (10_state.md R104) -/

/-- F as a byte: Z N H C 0 0 0 0 (R454). -/
def flagsByte (f : Flags) : Byte :=
  BitVec.ofNat 8 (f.z.toNat * 128 + f.n.toNat * 64 + f.h.toNat * 32 + f.c.toNat * 16)

/-- The flags a byte written to F leaves; its low nibble is dropped (R104). -/
def flagsOfByte (v : Byte) : Flags :=
  { z := v.getLsbD 7, n := v.getLsbD 6, h := v.getLsbD 5, c := v.getLsbD 4 }

/-! ## 8-bit functions -/

/-- `add8(a, b, cin)` (R450). -/
def add8 (a b : Byte) (cin : Bool) : Byte × Flags :=
  let s := a.toNat + b.toNat + cin.toNat
  let v := BitVec.ofNat 8 s
  (v, { z := v == 0, n := false, h := decide (a.toNat % 16 + b.toNat % 16 + cin.toNat > 0xF), c := decide (s > 0xFF) })

/-- `sub8(a, b, bin)` (R451). -/
def sub8 (a b : Byte) (bin : Bool) : Byte × Flags :=
  let d : Int := (a.toNat : Int) - b.toNat - bin.toNat
  let v := BitVec.ofInt 8 d
  (v, { z := v == 0, n := true, h := decide (a.toNat % 16 < b.toNat % 16 + bin.toNat),
        c := decide (a.toNat < b.toNat + bin.toNat) })

/-- `and8(a, b)` (R452). -/
def and8 (a b : Byte) : Byte × Flags :=
  let v := a &&& b
  (v, { z := v == 0, n := false, h := true, c := false })

/-- `or8(a, b)` (R453). -/
def or8 (a b : Byte) : Byte × Flags :=
  let v := a ||| b
  (v, { z := v == 0, n := false, h := false, c := false })

/-- `xor8(a, b)` (R453). -/
def xor8 (a b : Byte) : Byte × Flags :=
  let v := a ^^^ b
  (v, { z := v == 0, n := false, h := false, c := false })

/-- DAA on A and the flags N, H, C (R483). -/
def daa8 (a : Byte) (f : Flags) : Byte × Flags :=
  let fixL : Bool := f.h || (!f.n && decide (a.toNat % 16 > 9))
  let fixH : Bool := f.c || (!f.n && decide (a.toNat > 0x99))
  let fix : Nat := 0x60 * fixH.toNat + 0x06 * fixL.toNat
  let v := if f.n then BitVec.ofInt 8 ((a.toNat : Int) - fix) else BitVec.ofNat 8 (a.toNat + fix)
  (v, { z := v == 0, n := f.n, h := false, c := fixH })

/-! ## 16-bit functions -/

/-- `add16H(a, b)`: the sum, with H and C from the high byte (R501). -/
def add16H (a b : Word) : Word × Bool × Bool :=
  let (l, fl) := add8 (loByte a) (loByte b) false
  let (h, fh) := add8 (hiByte a) (hiByte b) fl.c
  (word h l, fh.h, fh.c)

/-- `add16L(a, b)`: the sum, with H and C from the low byte (R502). -/
def add16L (a b : Word) : Word × Bool × Bool :=
  let (l, fl) := add8 (loByte a) (loByte b) false
  let (h, _) := add8 (hiByte a) (hiByte b) fl.c
  (word h l, fl.h, fl.c)

/-! ## Rotates and shifts (R521): the result and the bit that leaves -/

def rlc8 (v : Byte) : Byte × Bool := (rotate v 1, v.getLsbD 7)

def rrc8 (v : Byte) : Byte × Bool := (rotate v (-1), v.getLsbD 0)

def rl8 (v : Byte) (c : Bool) : Byte × Bool := (BitVec.ofNat 8 (v.toNat * 2 + c.toNat), v.getLsbD 7)

def rr8 (v : Byte) (c : Bool) : Byte × Bool := (BitVec.ofNat 8 (v.toNat / 2 + c.toNat * 128), v.getLsbD 0)

def sla8 (v : Byte) : Byte × Bool := (BitVec.ofNat 8 (v.toNat * 2), v.getLsbD 7)

def sra8 (v : Byte) : Byte × Bool := (BitVec.ofNat 8 (v.toNat / 2 + (v.getLsbD 7).toNat * 128), v.getLsbD 0)

def srl8 (v : Byte) : Byte × Bool := (BitVec.ofNat 8 (v.toNat / 2), v.getLsbD 0)

def swap8 (v : Byte) : Byte × Bool := (BitVec.ofNat 8 (v.toNat % 16 * 16 + v.toNat / 16), false)

/-- The flags of a prefixed rotate, shift or swap: Z from the result, N = H = 0, C the bit that left. -/
def shiftFlags (v : Byte) (out : Bool) : Flags := { z := v == 0, n := false, h := false, c := out }

/-- The flags of an accumulator rotate: Z = N = H = 0, C the bit that left (R522 to R525). -/
def accRotateFlags (out : Bool) : Flags := { z := false, n := false, h := false, c := out }

end Sys2Proof.Machine
end

