-- ==== Sys2Proof/Machine/Ops.lean ====
section
/-! DEFINITION. The named operations over registers, stack and sequencing state that the meanings share: the register
file and its pairs (10_state.md R100 to R104), push and pop (44_control.md R560), the end of an instruction (40_loads.md
R400, 60_exceptions.md R711), raising a fault (R702), and the entry of an interrupt and the return from one (R730,
44_control.md R570). -/

namespace Sys2Proof.Machine

/-- What a meaning and a step answer. -/
abbrev Result := Host.Outcome State Fault Refusal

/-! ## The register file -/

/-- Register ids in their dense order (R102). -/
inductive RegId where
  | a | f | b | c | d | e | h | l
  deriving DecidableEq, Repr

/-- The cell an instruction's 8-bit register field names (30_encoding.md R304). -/
def regOfR8 : R8 → RegId
  | .b => .b | .c => .c | .d => .d | .e => .e | .h => .h | .l => .l | .a => .a

/-- `R[r]` of a register file (R101). -/
def regsGet (r : RegId) (g : Regs) : Byte :=
  match r with
  | .a => g.a
  | .f => flagsByte g.f
  | .b => g.b
  | .c => g.c
  | .d => g.d
  | .e => g.e
  | .h => g.h
  | .l => g.l

/-- `R[r] <- v` of a register file; F keeps its low nibble 0 (R101, R104). -/
def regsSet (r : RegId) (v : Byte) (g : Regs) : Regs :=
  match r with
  | .a => { g with a := v }
  | .f => { g with f := flagsOfByte v }
  | .b => { g with b := v }
  | .c => { g with c := v }
  | .d => { g with d := v }
  | .e => { g with e := v }
  | .h => { g with h := v }
  | .l => { g with l := v }

/-- `R[r]`. -/
def readReg (r : RegId) (s : State) : Byte := regsGet r s.regs

/-- `R[r] <- v`. -/
def writeReg (r : RegId) (v : Byte) (s : State) : State := { s with regs := regsSet r v s.regs }

/-- A bit of a cell, by index 0 to 7 (R101). -/
def testRegBit (r : RegId) (i : Fin 8) (s : State) : Bool := (readReg r s).getLsbD i

/-- A cell with one bit set or cleared (R101). -/
def setRegBit (r : RegId) (i : Fin 8) (b : Bool) (s : State) : State := writeReg r (setBit (readReg r s) i b) s

/-- `R[r]` for an 8-bit register field. -/
def readR8 (r : R8) (s : State) : Byte := readReg (regOfR8 r) s

/-- `R[r] <- v` for an 8-bit register field. -/
def writeR8 (r : R8) (v : Byte) (s : State) : State := writeReg (regOfR8 r) v s

/-- All four flags written (41_alu8.md R454). -/
def writeFlags (f : Flags) (s : State) : State := { s with regs := { s.regs with f := f } }

/-! ## Pairs (R103) -/

/-- `RR[BC]`, `RR[DE]`, `RR[HL]`. -/
def readBc (s : State) : Word := word s.regs.b s.regs.c
def readDe (s : State) : Word := word s.regs.d s.regs.e
def readHl (s : State) : Word := word s.regs.h s.regs.l

def writeBc (v : Word) (s : State) : State := { s with regs := { s.regs with b := hiByte v, c := loByte v } }
def writeDe (v : Word) (s : State) : State := { s with regs := { s.regs with d := hiByte v, e := loByte v } }
def writeHl (v : Word) (s : State) : State := { s with regs := { s.regs with h := hiByte v, l := loByte v } }

/-- `RR[AF]`. -/
def readAf (s : State) : Word := word s.regs.a (flagsByte s.regs.f)

/-- `RR[AF] <- v`: the low nibble of F stays 0 (R103, R104). -/
def writeAf (v : Word) (s : State) : State :=
  { s with regs := { s.regs with a := hiByte v, f := flagsOfByte (loByte v) } }

/-- `RR[rr]` for the field `rp`; `RR[SP]` is sp (42_alu16.md R500). -/
def readRp (rp : Rp) (s : State) : Word :=
  match rp with
  | .bc => readBc s
  | .de => readDe s
  | .hl => readHl s
  | .sp => s.sp

/-- `RR[rr] <- v` for the field `rp`. -/
def writeRp (rp : Rp) (v : Word) (s : State) : State :=
  match rp with
  | .bc => writeBc v s
  | .de => writeDe v s
  | .hl => writeHl v s
  | .sp => { s with sp := v }

/-- `RR[rr]` for the field `rp2`. -/
def readRp2 (rp : Rp2) (s : State) : Word :=
  match rp with
  | .bc => readBc s
  | .de => readDe s
  | .hl => readHl s
  | .af => readAf s

/-- `RR[rr] <- v` for the field `rp2`. -/
def writeRp2 (rp : Rp2) (v : Word) (s : State) : State :=
  match rp with
  | .bc => writeBc v s
  | .de => writeDe v s
  | .hl => writeHl v s
  | .af => writeAf v s

/-! ## The stack (44_control.md R560, 40_loads.md R430, R431) -/

/-- `push16(v)`: the high byte first, at the higher address. -/
def push16 (v : Word) (s : State) : State :=
  let s1 := busWrite (s.sp - 1) (hiByte v) { s with sp := s.sp - 1 }
  busWrite (s1.sp - 1) (loByte v) { s1 with sp := s1.sp - 1 }

/-- The word `pop16()` returns. -/
def popValue (s : State) : Word := word (busRead (s.sp + 1) s) (busRead s.sp s)

/-- The state `pop16()` leaves. Reads have no side effects (20_memory.md R200). -/
def popSp (s : State) : State := { s with sp := s.sp + 2 }

/-! ## The end of an instruction (40_loads.md R400, 60_exceptions.md R711) -/

/-- Control goes to `target`, and the next fetch boundary is `cost` cycles after the current one. -/
def jumpTo (target : Word) (cost : Nat) (s : State) : State :=
  { s with pc := target, nextCycle := .cycle (s.cycles + cost) }

/-- `pc <- trunc_16(pc + len)`, and the next fetch boundary is `cost` cycles after the current one. -/
def advance (len : Word) (cost : Nat) (s : State) : State := jumpTo (s.pc + len) cost s

/-! ## Faults (60_exceptions.md R702) -/

/-- `raise Fault(info)`: the fault field is set, and nothing else. -/
def raiseFault (info : Fault) (s : State) : State := { s with fault := some info }

/-! ## Interrupts (60_exceptions.md R710, R722, R723, R730; 44_control.md R570) -/

/-- `IE and IF and 0x1F`: the enabled-and-pending interrupts (R722). -/
def pendingIrqs (s : State) : BitVec 5 := s.ie.setWidth 5 &&& s.iflag

/-- The lowest-numbered set bit (R723); 4 when the lower four are clear. -/
def lowestIrq (p : BitVec 5) : Nat :=
  if p.getLsbD 0 then 0 else if p.getLsbD 1 then 1 else if p.getLsbD 2 then 2 else if p.getLsbD 3 then 3 else 4

/-- The handler's address `0x40 + 8i` (R720). -/
def irqVector (i : Nat) : Word := 0x0040 + BitVec.ofNat 16 (8 * i)

/-- `service(i)` (R730): the one exception entry of this hardware. -/
def serviceIrq (i : Nat) (s : State) : State :=
  let ret : Word := if s.haltBugPending then s.pc - 1 else s.pc
  let s1 : State := { s with ime := false, imePending := false, iflag := setBit s.iflag i false, haltBugPending := false }
  { push16 ret s1 with pc := irqVector i }

/-- The return: the address popped and IME set at once (44_control.md R570). The interrupt logic is all in State. -/
def returnFromIrq (s : State) : State :=
  { popSp s with pc := popValue s, ime := true, imePending := false }

end Sys2Proof.Machine
end

