-- ==== Sys2Proof/Machine/Operands.lean ====
section
/-! DEFINITION. The operand forms (30_encoding.md R304 to R307): where a memory operand lies, and the conditions. The
immediate bytes are in the decoded instruction, read at the fetch (R313). -/

namespace Sys2Proof.Machine

/-- The byte at (HL). -/
def readInd (s : State) : Byte := busRead (readHl s) s

/-- The byte at (HL), written. -/
def writeInd (v : Byte) (s : State) : State := busWrite (readHl s) v s

/-- The address `0xFF00 + a8` of LDH and of LD (C) (R307, R314). -/
def highPage (a8 : Byte) : Word := 0xFF00 + a8.setWidth 16

/-- `cond(cc)` on the current flags (R306, 44_control.md R560). -/
def condHolds (cc : Cond) (s : State) : Bool :=
  match cc with
  | .nz => !s.regs.f.z
  | .z => s.regs.f.z
  | .nc => !s.regs.f.c
  | .c => s.regs.f.c

/-- The restart address `y * 8` (R307). -/
def rstVector (y : BitVec 3) : Word := BitVec.ofNat 16 (y.toNat * 8)

/-- The target of a relative jump of length 2: `pc + 2 + sext_16(e)` (44_control.md R564). -/
def relTarget (e : Byte) (s : State) : Word := s.pc + 2 + sext16 e

end Sys2Proof.Machine
end

