-- ==== Sys2Proof/Machine/Alu16.lean ====
section
/-! DEFINITION. The meanings of the 16-bit arithmetic instructions: 42_alu16.md R503 to R506. -/

namespace Sys2Proof.Machine

/-- R503 ADD HL,rr: Z is not written. -/
def execAddHlRp (rp : Rp) (s : State) : Result :=
  let r := add16H (readHl s) (readRp rp s)
  .next (advance 1 2 (writeFlags { s.regs.f with n := false, h := r.2.1, c := r.2.2 } (writeHl r.1 s)))

/-- R504 INC rr -/
def execIncRp (rp : Rp) (s : State) : Result := .next (advance 1 2 (writeRp rp (readRp rp s + 1) s))

/-- R505 DEC rr -/
def execDecRp (rp : Rp) (s : State) : Result := .next (advance 1 2 (writeRp rp (readRp rp s - 1) s))

/-- R506 ADD SP,e8 -/
def execAddSpE (e : Byte) (s : State) : Result :=
  let r := add16L s.sp (sext16 e)
  .next (advance 2 4 (writeFlags { z := false, n := false, h := r.2.1, c := r.2.2 } (writeRp .sp r.1 s)))

end Sys2Proof.Machine
end

