-- ==== Sys2Proof/Machine/Alu8.lean ====
section
/-! DEFINITION. The meanings of the 8-bit arithmetic and logic instructions: 41_alu8.md R455 to R486. -/

namespace Sys2Proof.Machine

/-- The end of an operation that writes A and all four flags. -/
def aluToA (r : Byte × Flags) (s : State) : State := writeFlags r.2 (writeR8 .a r.1 s)

/-- The flags of INC and DEC: Z, N and H from the ALU, C unchanged (R479 to R482). -/
def incDecFlags (new old : Flags) : Flags := { new with c := old.c }

/-! ## The eight-operation group: register, (HL) and immediate forms -/

/-- R455 ADD A,r -/
def execAddR (r : R8) (s : State) : Result := .next (advance 1 1 (aluToA (add8 s.regs.a (readR8 r s) false) s))

/-- R456 ADD A,(HL) -/
def execAddInd (s : State) : Result := .next (advance 1 2 (aluToA (add8 s.regs.a (readInd s) false) s))

/-- R457 ADD A,n8 -/
def execAddN (n : Byte) (s : State) : Result := .next (advance 2 2 (aluToA (add8 s.regs.a n false) s))

/-- R458 ADC A,r -/
def execAdcR (r : R8) (s : State) : Result := .next (advance 1 1 (aluToA (add8 s.regs.a (readR8 r s) s.regs.f.c) s))

/-- R459 ADC A,(HL) -/
def execAdcInd (s : State) : Result := .next (advance 1 2 (aluToA (add8 s.regs.a (readInd s) s.regs.f.c) s))

/-- R460 ADC A,n8 -/
def execAdcN (n : Byte) (s : State) : Result := .next (advance 2 2 (aluToA (add8 s.regs.a n s.regs.f.c) s))

/-- R461 SUB r -/
def execSubR (r : R8) (s : State) : Result := .next (advance 1 1 (aluToA (sub8 s.regs.a (readR8 r s) false) s))

/-- R462 SUB (HL) -/
def execSubInd (s : State) : Result := .next (advance 1 2 (aluToA (sub8 s.regs.a (readInd s) false) s))

/-- R463 SUB n8 -/
def execSubN (n : Byte) (s : State) : Result := .next (advance 2 2 (aluToA (sub8 s.regs.a n false) s))

/-- R464 SBC A,r -/
def execSbcR (r : R8) (s : State) : Result := .next (advance 1 1 (aluToA (sub8 s.regs.a (readR8 r s) s.regs.f.c) s))

/-- R465 SBC A,(HL) -/
def execSbcInd (s : State) : Result := .next (advance 1 2 (aluToA (sub8 s.regs.a (readInd s) s.regs.f.c) s))

/-- R466 SBC A,n8 -/
def execSbcN (n : Byte) (s : State) : Result := .next (advance 2 2 (aluToA (sub8 s.regs.a n s.regs.f.c) s))

/-- R467 AND r -/
def execAndR (r : R8) (s : State) : Result := .next (advance 1 1 (aluToA (and8 s.regs.a (readR8 r s)) s))

/-- R468 AND (HL) -/
def execAndInd (s : State) : Result := .next (advance 1 2 (aluToA (and8 s.regs.a (readInd s)) s))

/-- R469 AND n8 -/
def execAndN (n : Byte) (s : State) : Result := .next (advance 2 2 (aluToA (and8 s.regs.a n) s))

/-- R470 XOR r -/
def execXorR (r : R8) (s : State) : Result := .next (advance 1 1 (aluToA (xor8 s.regs.a (readR8 r s)) s))

/-- R471 XOR (HL) -/
def execXorInd (s : State) : Result := .next (advance 1 2 (aluToA (xor8 s.regs.a (readInd s)) s))

/-- R472 XOR n8 -/
def execXorN (n : Byte) (s : State) : Result := .next (advance 2 2 (aluToA (xor8 s.regs.a n) s))

/-- R473 OR r -/
def execOrR (r : R8) (s : State) : Result := .next (advance 1 1 (aluToA (or8 s.regs.a (readR8 r s)) s))

/-- R474 OR (HL) -/
def execOrInd (s : State) : Result := .next (advance 1 2 (aluToA (or8 s.regs.a (readInd s)) s))

/-- R475 OR n8 -/
def execOrN (n : Byte) (s : State) : Result := .next (advance 2 2 (aluToA (or8 s.regs.a n) s))

/-- R476 CP r -/
def execCpR (r : R8) (s : State) : Result := .next (advance 1 1 (writeFlags (sub8 s.regs.a (readR8 r s) false).2 s))

/-- R477 CP (HL) -/
def execCpInd (s : State) : Result := .next (advance 1 2 (writeFlags (sub8 s.regs.a (readInd s) false).2 s))

/-- R478 CP n8 -/
def execCpN (n : Byte) (s : State) : Result := .next (advance 2 2 (writeFlags (sub8 s.regs.a n false).2 s))

/-! ## Increment and decrement -/

/-- R479 INC r -/
def execIncR (r : R8) (s : State) : Result :=
  let x := add8 (readR8 r s) 1 false
  .next (advance 1 1 (writeFlags (incDecFlags x.2 s.regs.f) (writeR8 r x.1 s)))

/-- R480 INC (HL) -/
def execIncInd (s : State) : Result :=
  let x := add8 (readInd s) 1 false
  .next (advance 1 3 (writeFlags (incDecFlags x.2 s.regs.f) (writeInd x.1 s)))

/-- R481 DEC r -/
def execDecR (r : R8) (s : State) : Result :=
  let x := sub8 (readR8 r s) 1 false
  .next (advance 1 1 (writeFlags (incDecFlags x.2 s.regs.f) (writeR8 r x.1 s)))

/-- R482 DEC (HL) -/
def execDecInd (s : State) : Result :=
  let x := sub8 (readInd s) 1 false
  .next (advance 1 3 (writeFlags (incDecFlags x.2 s.regs.f) (writeInd x.1 s)))

/-! ## Accumulator adjustments -/

/-- R483 DAA -/
def execDaa (s : State) : Result := .next (advance 1 1 (aluToA (daa8 s.regs.a s.regs.f) s))

/-- R484 CPL -/
def execCpl (s : State) : Result :=
  .next (advance 1 1 (writeFlags { s.regs.f with n := true, h := true } (writeR8 .a (~~~s.regs.a) s)))

/-- R485 SCF -/
def execScf (s : State) : Result :=
  .next (advance 1 1 (writeFlags { s.regs.f with n := false, h := false, c := true } s))

/-- R486 CCF -/
def execCcf (s : State) : Result :=
  .next (advance 1 1 (writeFlags { s.regs.f with n := false, h := false, c := !s.regs.f.c } s))

end Sys2Proof.Machine
end

