-- ==== Sys2Proof/Machine/Control.lean ====
section
/-! DEFINITION. The meanings of the control transfers: 44_control.md R561 to R575. A conditional transfer has two costs (R560). -/

namespace Sys2Proof.Machine

/-- R561 JP a16 -/
def execJp (a16 : Word) (s : State) : Result := .next (jumpTo a16 4 s)

/-- R562 JP cc,a16 -/
def execJpCc (cc : Cond) (a16 : Word) (s : State) : Result :=
  .next (if condHolds cc s then jumpTo a16 4 s else advance 3 3 s)

/-- R563 JP HL -/
def execJpHl (s : State) : Result := .next (jumpTo (readHl s) 1 s)

/-- R564 JR e8 -/
def execJr (e : Byte) (s : State) : Result := .next (jumpTo (relTarget e s) 3 s)

/-- R565 JR cc,e8 -/
def execJrCc (cc : Cond) (e : Byte) (s : State) : Result :=
  .next (if condHolds cc s then jumpTo (relTarget e s) 3 s else advance 2 2 s)

/-- R566 CALL a16 -/
def execCall (a16 : Word) (s : State) : Result := .next (jumpTo a16 6 (push16 (s.pc + 3) s))

/-- R567 CALL cc,a16 -/
def execCallCc (cc : Cond) (a16 : Word) (s : State) : Result :=
  .next (if condHolds cc s then jumpTo a16 6 (push16 (s.pc + 3) s) else advance 3 3 s)

/-- R568 RET -/
def execRet (s : State) : Result := .next (jumpTo (popValue s) 4 (popSp s))

/-- R569 RET cc -/
def execRetCc (cc : Cond) (s : State) : Result :=
  .next (if condHolds cc s then jumpTo (popValue s) 5 (popSp s) else advance 1 2 s)

/-- R570 RETI -/
def execReti (s : State) : Result := .next (jumpTo (popValue s) 4 (returnFromIrq s))

/-- R575 RST t -/
def execRst (y : BitVec 3) (s : State) : Result := .next (jumpTo (rstVector y) 4 (push16 (s.pc + 1) s))

end Sys2Proof.Machine
end

