-- ==== Sys2Proof/Machine/Loads.lean ====
section
/-! DEFINITION. The meanings of the loads, stores and stack instructions: 40_loads.md R401 to R431. Costs are those of
70_reset_and_hazards.md R950. -/

namespace Sys2Proof.Machine

/-- R401 LD r,r' -/
def execLdRR (r r' : R8) (s : State) : Result := .next (advance 1 1 (writeR8 r (readR8 r' s) s))

/-- R402 LD r,n8 -/
def execLdRN (r : R8) (n : Byte) (s : State) : Result := .next (advance 2 2 (writeR8 r n s))

/-- R403 LD r,(HL) -/
def execLdRInd (r : R8) (s : State) : Result := .next (advance 1 2 (writeR8 r (readInd s) s))

/-- R404 LD (HL),r -/
def execLdIndR (r : R8) (s : State) : Result := .next (advance 1 2 (writeInd (readR8 r s) s))

/-- R405 LD (HL),n8 -/
def execLdIndN (n : Byte) (s : State) : Result := .next (advance 2 3 (writeInd n s))

/-- R406 LD A,(BC) -/
def execLdABc (s : State) : Result := .next (advance 1 2 (writeR8 .a (busRead (readBc s) s) s))

/-- R407 LD A,(DE) -/
def execLdADe (s : State) : Result := .next (advance 1 2 (writeR8 .a (busRead (readDe s) s) s))

/-- R408 LD (BC),A -/
def execLdBcA (s : State) : Result := .next (advance 1 2 (busWrite (readBc s) s.regs.a s))

/-- R409 LD (DE),A -/
def execLdDeA (s : State) : Result := .next (advance 1 2 (busWrite (readDe s) s.regs.a s))

/-- R410 LD A,(a16) -/
def execLdAA16 (a16 : Word) (s : State) : Result := .next (advance 3 4 (writeR8 .a (busRead a16 s) s))

/-- R411 LD (a16),A -/
def execLdA16A (a16 : Word) (s : State) : Result := .next (advance 3 4 (busWrite a16 s.regs.a s))

/-- R412 LD A,(HL+) -/
def execLdAHli (s : State) : Result :=
  .next (advance 1 2 (writeHl (readHl s + 1) (writeR8 .a (readInd s) s)))

/-- R413 LD A,(HL-) -/
def execLdAHld (s : State) : Result :=
  .next (advance 1 2 (writeHl (readHl s - 1) (writeR8 .a (readInd s) s)))

/-- R414 LD (HL+),A -/
def execLdHliA (s : State) : Result :=
  .next (advance 1 2 (writeHl (readHl s + 1) (writeInd s.regs.a s)))

/-- R415 LD (HL-),A -/
def execLdHldA (s : State) : Result :=
  .next (advance 1 2 (writeHl (readHl s - 1) (writeInd s.regs.a s)))

/-- R416 LDH A,(a8) -/
def execLdhAA8 (a8 : Byte) (s : State) : Result := .next (advance 2 3 (writeR8 .a (busRead (highPage a8) s) s))

/-- R417 LDH (a8),A -/
def execLdhA8A (a8 : Byte) (s : State) : Result := .next (advance 2 3 (busWrite (highPage a8) s.regs.a s))

/-- R418 LD A,(C) -/
def execLdAC (s : State) : Result := .next (advance 1 2 (writeR8 .a (busRead (highPage s.regs.c) s) s))

/-- R419 LD (C),A -/
def execLdCA (s : State) : Result := .next (advance 1 2 (busWrite (highPage s.regs.c) s.regs.a s))

/-- R420 LD rr,n16 -/
def execLdRpN16 (rp : Rp) (n16 : Word) (s : State) : Result := .next (advance 3 3 (writeRp rp n16 s))

/-- R421 LD (a16),SP -/
def execLdA16Sp (a16 : Word) (s : State) : Result := .next (advance 3 5 (busWrite16 a16 s.sp s))

/-- R422 LD SP,HL -/
def execLdSpHl (s : State) : Result := .next (advance 1 2 (writeRp .sp (readHl s) s))

/-- The flags of LD HL,SP+e8 and of ADD SP,e8: Z = N = 0, H and C from the low byte (R423, 42_alu16.md R506). -/
def spOffsetFlags (hc : Bool × Bool) : Flags := { z := false, n := false, h := hc.1, c := hc.2 }

/-- R423 LD HL,SP+e8 -/
def execLdHlSpE (e : Byte) (s : State) : Result :=
  let r := add16L s.sp (sext16 e)
  .next (advance 2 3 (writeFlags (spOffsetFlags r.2) (writeHl r.1 s)))

/-- R430 PUSH rr -/
def execPush (rp : Rp2) (s : State) : Result := .next (advance 1 4 (push16 (readRp2 rp s) s))

/-- R431 POP rr -/
def execPop (rp : Rp2) (s : State) : Result := .next (advance 1 3 (writeRp2 rp (popValue s) (popSp s)))

end Sys2Proof.Machine
end

