-- ==== Sys2Proof/Machine/RotBit.lean ====
section
/-! DEFINITION. The meanings of the rotates, shifts, nibble swap and single-bit operations: 43_rotate_shift_bit.md R522 to R547. -/

namespace Sys2Proof.Machine

/-! ## Accumulator rotates -/

/-- An accumulator rotate's end: A and all four flags written. -/
def rotateToA (r : Byte × Bool) (s : State) : State := writeFlags (accRotateFlags r.2) (writeR8 .a r.1 s)

/-- R522 RLCA -/
def execRlca (s : State) : Result := .next (advance 1 1 (rotateToA (rlc8 s.regs.a) s))

/-- R523 RRCA -/
def execRrca (s : State) : Result := .next (advance 1 1 (rotateToA (rrc8 s.regs.a) s))

/-- R524 RLA -/
def execRla (s : State) : Result := .next (advance 1 1 (rotateToA (rl8 s.regs.a s.regs.f.c) s))

/-- R525 RRA -/
def execRra (s : State) : Result := .next (advance 1 1 (rotateToA (rr8 s.regs.a s.regs.f.c) s))

/-! ## Prefixed rotates, shifts and swap -/

/-- The end of a register form: the register and all four flags written. -/
def shiftToR (r : R8) (x : Byte × Bool) (s : State) : State := writeFlags (shiftFlags x.1 x.2) (writeR8 r x.1 s)

/-- The end of a (HL) form: the byte at HL and all four flags written. -/
def shiftToInd (x : Byte × Bool) (s : State) : State := writeFlags (shiftFlags x.1 x.2) (writeInd x.1 s)

/-- R526 RLC r -/
def execRlcR (r : R8) (s : State) : Result := .next (advance 2 2 (shiftToR r (rlc8 (readR8 r s)) s))

/-- R527 RLC (HL) -/
def execRlcInd (s : State) : Result := .next (advance 2 4 (shiftToInd (rlc8 (readInd s)) s))

/-- R528 RRC r -/
def execRrcR (r : R8) (s : State) : Result := .next (advance 2 2 (shiftToR r (rrc8 (readR8 r s)) s))

/-- R529 RRC (HL) -/
def execRrcInd (s : State) : Result := .next (advance 2 4 (shiftToInd (rrc8 (readInd s)) s))

/-- R530 RL r -/
def execRlR (r : R8) (s : State) : Result := .next (advance 2 2 (shiftToR r (rl8 (readR8 r s) s.regs.f.c) s))

/-- R531 RL (HL) -/
def execRlInd (s : State) : Result := .next (advance 2 4 (shiftToInd (rl8 (readInd s) s.regs.f.c) s))

/-- R532 RR r -/
def execRrR (r : R8) (s : State) : Result := .next (advance 2 2 (shiftToR r (rr8 (readR8 r s) s.regs.f.c) s))

/-- R533 RR (HL) -/
def execRrInd (s : State) : Result := .next (advance 2 4 (shiftToInd (rr8 (readInd s) s.regs.f.c) s))

/-- R534 SLA r -/
def execSlaR (r : R8) (s : State) : Result := .next (advance 2 2 (shiftToR r (sla8 (readR8 r s)) s))

/-- R535 SLA (HL) -/
def execSlaInd (s : State) : Result := .next (advance 2 4 (shiftToInd (sla8 (readInd s)) s))

/-- R536 SRA r -/
def execSraR (r : R8) (s : State) : Result := .next (advance 2 2 (shiftToR r (sra8 (readR8 r s)) s))

/-- R537 SRA (HL) -/
def execSraInd (s : State) : Result := .next (advance 2 4 (shiftToInd (sra8 (readInd s)) s))

/-- R538 SWAP r -/
def execSwapR (r : R8) (s : State) : Result := .next (advance 2 2 (shiftToR r (swap8 (readR8 r s)) s))

/-- R539 SWAP (HL) -/
def execSwapInd (s : State) : Result := .next (advance 2 4 (shiftToInd (swap8 (readInd s)) s))

/-- R540 SRL r -/
def execSrlR (r : R8) (s : State) : Result := .next (advance 2 2 (shiftToR r (srl8 (readR8 r s)) s))

/-- R541 SRL (HL) -/
def execSrlInd (s : State) : Result := .next (advance 2 4 (shiftToInd (srl8 (readInd s)) s))

/-! ## Single-bit operations -/

/-- The flags of BIT: Z is the complement of the bit, N = 0, H = 1, C unchanged (R542, R543). -/
def bitFlags (v : Byte) (b : BitVec 3) (old : Flags) : Flags :=
  { old with z := !v.getLsbD b.toNat, n := false, h := true }

/-- R542 BIT b,r -/
def execBitR (b : BitVec 3) (r : R8) (s : State) : Result :=
  .next (advance 2 2 (writeFlags (bitFlags (readR8 r s) b s.regs.f) s))

/-- R543 BIT b,(HL) -/
def execBitInd (b : BitVec 3) (s : State) : Result :=
  .next (advance 2 3 (writeFlags (bitFlags (readInd s) b s.regs.f) s))

/-- R544 RES b,r -/
def execResR (b : BitVec 3) (r : R8) (s : State) : Result :=
  .next (advance 2 2 (writeR8 r (setBit (readR8 r s) b.toNat false) s))

/-- R545 RES b,(HL) -/
def execResInd (b : BitVec 3) (s : State) : Result :=
  .next (advance 2 4 (writeInd (setBit (readInd s) b.toNat false) s))

/-- R546 SET b,r -/
def execSetR (b : BitVec 3) (r : R8) (s : State) : Result :=
  .next (advance 2 2 (writeR8 r (setBit (readR8 r s) b.toNat true) s))

/-- R547 SET b,(HL) -/
def execSetInd (b : BitVec 3) (s : State) : Result :=
  .next (advance 2 4 (writeInd (setBit (readInd s) b.toNat true) s))

end Sys2Proof.Machine
end

