-- ==== Sys2Proof/Machine/Prefixed.lean ====
section
/-! DEFINITION. The meaning of the decoding entry PREFIX 0xCB (45_system.md R607): that of the prefixed instruction its second
byte selects. -/

namespace Sys2Proof.Machine

/-- The eight rotates and shifts on a register, by `y` (30_encoding.md R307). -/
def execRotR (y : Nat) (r : R8) (s : State) : Result :=
  match y with
  | 0 => execRlcR r s
  | 1 => execRrcR r s
  | 2 => execRlR r s
  | 3 => execRrR r s
  | 4 => execSlaR r s
  | 5 => execSraR r s
  | 6 => execSwapR r s
  | _ => execSrlR r s

/-- The eight rotates and shifts on the byte at (HL), by `y`. -/
def execRotInd (y : Nat) (s : State) : Result :=
  match y with
  | 0 => execRlcInd s
  | 1 => execRrcInd s
  | 2 => execRlInd s
  | 3 => execRrInd s
  | 4 => execSlaInd s
  | 5 => execSraInd s
  | 6 => execSwapInd s
  | _ => execSrlInd s

/-- R607 PREFIX: `prefixed[b1]` by its fields (30_encoding.md R309). -/
def execPrefixCB (b1 : Byte) (s : State) : Result :=
  let y := fieldY b1
  let b := BitVec.ofNat 3 y
  match fieldX b1, r8OfCode (fieldZ b1) with
  | 0, some r => execRotR y r s
  | 0, none => execRotInd y s
  | 1, some r => execBitR b r s
  | 1, none => execBitInd b s
  | 2, some r => execResR b r s
  | 2, none => execResInd b s
  | _, some r => execSetR b r s
  | _, none => execSetInd b s

end Sys2Proof.Machine
end

