-- ==== Sys2Proof/Machine/System.lean ====
section
/-! DEFINITION. The meanings of the system and CPU-control instructions: 45_system.md R601 to R608. -/

namespace Sys2Proof.Machine

/-- R601 NOP -/
def execNop (s : State) : Result := .next (advance 1 1 s)

/-- HALT takes the path of the HALT bug: `HALT_BUG`, IME = 0 and an enabled interrupt pending (R602). -/
def haltBugTaken (s : State) : Bool := !s.ime && (pendingIrqs s != 0) && s.params.haltBug

/-- R602 HALT -/
def execHalt (s : State) : Result :=
  .next (if haltBugTaken s then { advance 1 1 s with haltBugPending := true }
         else { advance 1 1 s with nextCycle := .halted })

/-- R603 STOP: the terminal fault `StopUnmodelled(pc)`, which the state holds from here on (60_exceptions.md R702). -/
def execStop (_n : Byte) (s : State) : Result := .next (raiseFault (.stopUnmodelled s.pc) s)

/-- R604 DI -/
def execDi (s : State) : Result := .next (advance 1 1 { s with ime := false, imePending := false })

/-- R605 EI -/
def execEi (s : State) : Result :=
  .next (advance 1 1 { s with ime := if s.params.eiDelay then s.ime else true,
                              imePending := if s.params.eiDelay then true else s.imePending })

/-- R608 ILLEGAL: the terminal fault `IllegalOpcode(pc, op)`, which the state holds from here on (60_exceptions.md
R702). -/
def execIllegal (op : Byte) (s : State) : Result := .next (raiseFault (.illegalOpcode s.pc op) s)

end Sys2Proof.Machine
end

