-- ==== Sys2Proof/Machine/Dispatch.lean ====
section
/-! DEFINITION. One arm per instruction: the meaning each constructor has. -/

namespace Sys2Proof.Machine

def exec (i : Instr) (s : State) : Host.Outcome State Fault Refusal :=
  match i with
  | .ldRR r r' => Sys2Proof.Machine.execLdRR r r' s
  | .ldRN r n => Sys2Proof.Machine.execLdRN r n s
  | .ldRInd r => Sys2Proof.Machine.execLdRInd r s
  | .ldIndR r => Sys2Proof.Machine.execLdIndR r s
  | .ldIndN n => Sys2Proof.Machine.execLdIndN n s
  | .ldABc => Sys2Proof.Machine.execLdABc s
  | .ldADe => Sys2Proof.Machine.execLdADe s
  | .ldBcA => Sys2Proof.Machine.execLdBcA s
  | .ldDeA => Sys2Proof.Machine.execLdDeA s
  | .ldAA16 a16 => Sys2Proof.Machine.execLdAA16 a16 s
  | .ldA16A a16 => Sys2Proof.Machine.execLdA16A a16 s
  | .ldAHli => Sys2Proof.Machine.execLdAHli s
  | .ldAHld => Sys2Proof.Machine.execLdAHld s
  | .ldHliA => Sys2Proof.Machine.execLdHliA s
  | .ldHldA => Sys2Proof.Machine.execLdHldA s
  | .ldhAA8 a8 => Sys2Proof.Machine.execLdhAA8 a8 s
  | .ldhA8A a8 => Sys2Proof.Machine.execLdhA8A a8 s
  | .ldAC => Sys2Proof.Machine.execLdAC s
  | .ldCA => Sys2Proof.Machine.execLdCA s
  | .ldRpN16 rp n16 => Sys2Proof.Machine.execLdRpN16 rp n16 s
  | .ldA16Sp a16 => Sys2Proof.Machine.execLdA16Sp a16 s
  | .ldSpHl => Sys2Proof.Machine.execLdSpHl s
  | .ldHlSpE e => Sys2Proof.Machine.execLdHlSpE e s
  | .push rp => Sys2Proof.Machine.execPush rp s
  | .pop rp => Sys2Proof.Machine.execPop rp s
  | .addR r => Sys2Proof.Machine.execAddR r s
  | .addInd => Sys2Proof.Machine.execAddInd s
  | .addN n => Sys2Proof.Machine.execAddN n s
  | .adcR r => Sys2Proof.Machine.execAdcR r s
  | .adcInd => Sys2Proof.Machine.execAdcInd s
  | .adcN n => Sys2Proof.Machine.execAdcN n s
  | .subR r => Sys2Proof.Machine.execSubR r s
  | .subInd => Sys2Proof.Machine.execSubInd s
  | .subN n => Sys2Proof.Machine.execSubN n s
  | .sbcR r => Sys2Proof.Machine.execSbcR r s
  | .sbcInd => Sys2Proof.Machine.execSbcInd s
  | .sbcN n => Sys2Proof.Machine.execSbcN n s
  | .andR r => Sys2Proof.Machine.execAndR r s
  | .andInd => Sys2Proof.Machine.execAndInd s
  | .andN n => Sys2Proof.Machine.execAndN n s
  | .xorR r => Sys2Proof.Machine.execXorR r s
  | .xorInd => Sys2Proof.Machine.execXorInd s
  | .xorN n => Sys2Proof.Machine.execXorN n s
  | .orR r => Sys2Proof.Machine.execOrR r s
  | .orInd => Sys2Proof.Machine.execOrInd s
  | .orN n => Sys2Proof.Machine.execOrN n s
  | .cpR r => Sys2Proof.Machine.execCpR r s
  | .cpInd => Sys2Proof.Machine.execCpInd s
  | .cpN n => Sys2Proof.Machine.execCpN n s
  | .incR r => Sys2Proof.Machine.execIncR r s
  | .incInd => Sys2Proof.Machine.execIncInd s
  | .decR r => Sys2Proof.Machine.execDecR r s
  | .decInd => Sys2Proof.Machine.execDecInd s
  | .daa => Sys2Proof.Machine.execDaa s
  | .cpl => Sys2Proof.Machine.execCpl s
  | .scf => Sys2Proof.Machine.execScf s
  | .ccf => Sys2Proof.Machine.execCcf s
  | .addHlRp rp => Sys2Proof.Machine.execAddHlRp rp s
  | .incRp rp => Sys2Proof.Machine.execIncRp rp s
  | .decRp rp => Sys2Proof.Machine.execDecRp rp s
  | .addSpE e => Sys2Proof.Machine.execAddSpE e s
  | .rlca => Sys2Proof.Machine.execRlca s
  | .rrca => Sys2Proof.Machine.execRrca s
  | .rla => Sys2Proof.Machine.execRla s
  | .rra => Sys2Proof.Machine.execRra s
  | .rlcR r => Sys2Proof.Machine.execRlcR r s
  | .rlcInd => Sys2Proof.Machine.execRlcInd s
  | .rrcR r => Sys2Proof.Machine.execRrcR r s
  | .rrcInd => Sys2Proof.Machine.execRrcInd s
  | .rlR r => Sys2Proof.Machine.execRlR r s
  | .rlInd => Sys2Proof.Machine.execRlInd s
  | .rrR r => Sys2Proof.Machine.execRrR r s
  | .rrInd => Sys2Proof.Machine.execRrInd s
  | .slaR r => Sys2Proof.Machine.execSlaR r s
  | .slaInd => Sys2Proof.Machine.execSlaInd s
  | .sraR r => Sys2Proof.Machine.execSraR r s
  | .sraInd => Sys2Proof.Machine.execSraInd s
  | .swapR r => Sys2Proof.Machine.execSwapR r s
  | .swapInd => Sys2Proof.Machine.execSwapInd s
  | .srlR r => Sys2Proof.Machine.execSrlR r s
  | .srlInd => Sys2Proof.Machine.execSrlInd s
  | .bitR b r => Sys2Proof.Machine.execBitR b r s
  | .bitInd b => Sys2Proof.Machine.execBitInd b s
  | .resR b r => Sys2Proof.Machine.execResR b r s
  | .resInd b => Sys2Proof.Machine.execResInd b s
  | .setR b r => Sys2Proof.Machine.execSetR b r s
  | .setInd b => Sys2Proof.Machine.execSetInd b s
  | .jp a16 => Sys2Proof.Machine.execJp a16 s
  | .jpCc cc a16 => Sys2Proof.Machine.execJpCc cc a16 s
  | .jpHl => Sys2Proof.Machine.execJpHl s
  | .jr e => Sys2Proof.Machine.execJr e s
  | .jrCc cc e => Sys2Proof.Machine.execJrCc cc e s
  | .call a16 => Sys2Proof.Machine.execCall a16 s
  | .callCc cc a16 => Sys2Proof.Machine.execCallCc cc a16 s
  | .ret => Sys2Proof.Machine.execRet s
  | .retCc cc => Sys2Proof.Machine.execRetCc cc s
  | .reti => Sys2Proof.Machine.execReti s
  | .rst y => Sys2Proof.Machine.execRst y s
  | .nop => Sys2Proof.Machine.execNop s
  | .halt => Sys2Proof.Machine.execHalt s
  | .stop n => Sys2Proof.Machine.execStop n s
  | .di => Sys2Proof.Machine.execDi s
  | .ei => Sys2Proof.Machine.execEi s
  | .prefixCB b1 => Sys2Proof.Machine.execPrefixCB b1 s
  | .illegal op => Sys2Proof.Machine.execIllegal op s

end Sys2Proof.Machine
end

