-- ==== Sys2Proof/Machine/Cpu.lean ====
section
/-! DEFINITION. The CPU's step and the cycle of the whole machine: the wake-up of a halted CPU (45_system.md R609), the
fetch boundary (60_exceptions.md R710) with the HALT-bug fetch (R610) and the EI delay (R606), and the fixed order timer,
display, CPU of one cycle (00_scope.md R16, 70_reset_and_hazards.md R910). -/

namespace Sys2Proof.Machine

/-! ## The fetch boundary -/

/-- Wake-up: a halted CPU with an enabled interrupt pending has a fetch boundary in this very cycle (R609). -/
def wake (s : State) : State :=
  if s.nextCycle = .halted ∧ pendingIrqs s ≠ 0 then { s with nextCycle := .cycle s.cycles } else s

/-- The CPU is at a fetch boundary in the current cycle; otherwise it is idle or halted (R110, R710). -/
def atBoundary (s : State) : Bool := decide (s.nextCycle = .cycle s.cycles)

/-- At this boundary an interrupt is serviced, and no instruction fetched (R710, R722). -/
def serviceDue (s : State) : Bool := s.ime && (pendingIrqs s != 0)

/-- A boundary that services the lowest-numbered pending interrupt, at a cost of 5 (R710, R723, R730). -/
def serviceBoundary (s : State) : State :=
  { serviceIrq (lowestIrq (pendingIrqs s)) s with nextCycle := .cycle (s.cycles + 5) }

/-- The address the next instruction runs at: `pc`, or `pc' = pc - 1` for a HALT-bug fetch (R610). -/
def fetchBase (s : State) : Word := if s.haltBugPending then s.pc - 1 else s.pc

/-- The instruction at a boundary: its opcode byte at `pc`, byte k at `fetchBase + k` (R300, R313, R610). Reads have no
side effects (20_memory.md R200), so bytes that the instruction's length leaves out are of no effect. -/
def fetchInstr (s : State) : Instr :=
  decode3 (busRead s.pc s) (busRead (fetchBase s + 1) s) (busRead (fetchBase s + 2) s)

/-- The end of a boundary that executed an instruction, `s0` being the state before it. A fault has changed nothing but
the fault field, so pc keeps the address of the opcode, which is not the address a HALT-bug fetch ran the rule at (R702,
R610; log entry 7). Without a fault, a HALT-bug fetch is over (R610) and an enable that EI left pending before this
instruction takes effect (R606). -/
def finishBoundary (s0 s : State) : State :=
  if s.fault.isSome then { s with pc := s0.pc }
  else
    let s1 : State := { s with haltBugPending := s.haltBugPending && !s0.haltBugPending }
    if s0.imePending && s1.imePending then { s1 with ime := true, imePending := false } else s1

/-- A function applied to a next state; a fault or a refusal stays. -/
def mapNext (f : State → State) : Result → Result
  | .next s => .next (f s)
  | .fault r => .fault r
  | .refused r => .refused r

/-- A boundary that executes one instruction (R710). -/
def executeBoundary (s : State) : Result :=
  mapNext (finishBoundary s) (exec (fetchInstr s) { s with pc := fetchBase s })

/-- The CPU's step in the current cycle (R710), for a machine without a fault. -/
def cpuStep (s : State) : Result :=
  let w := wake s
  if atBoundary w then
    if serviceDue w then .next (serviceBoundary w) else executeBoundary w
  else .next w

/-! ## One cycle of the machine -/

/-- The steps of the timer and of the display, which run before the CPU's in every cycle (00_scope.md R16). -/
def devicesStep (s : State) : State := displayStep (timerStep s)

/-- `cycles <- c + 1` (70_reset_and_hazards.md R910). -/
def endCycle (s : State) : State := { s with cycles := s.cycles + 1 }

/-- One cycle; a machine that holds a fault takes no further step of any agent (60_exceptions.md R702). -/
def cycleStep (s : State) : Result :=
  match s.fault with
  | some f => .fault f
  | none => mapNext endCycle (cpuStep (devicesStep s))

/-! ## Placing an instruction for the next step -/

/-- A byte put where a fetch from `a` reads it, whatever may write there: the boot ROM while it is mapped, the mapped
cartridge ROM or RAM cell, a RAM, or IE. An address of an I/O register or of no device holds no byte, and nothing is
placed there. Log entry 5. -/
def placeByte (a : Word) (v : Byte) (s : State) : State :=
  if !s.bootDisabled && decide (a.toNat ≤ 0x00FF) then { s with bootRom := memWrite s.bootRom a.toNat v }
  else if a.toNat < 0x8000 then
    let i := match s.cart.kind with
      | .mbc0 => a.toNat
      | .mbc1 => mbc1RomIndex s.cart a.toNat
    { s with cart := { s.cart with rom := memWrite s.cart.rom i v } }
  else if a.toNat < 0xFEA0 ∨ 0xFF80 ≤ a.toNat then busWrite a v s
  else s

/-- The next step is made a fetch boundary that executes an instruction: no fault, not halted and not idle, no HALT-bug
fetch, and no interrupt service, for which IME is cleared only if IE enables a source. -/
def readyToFetch (s : State) : State :=
  { s with fault := none, nextCycle := .cycle s.cycles, haltBugPending := false,
           ime := s.ime && decide (s.ie.setWidth 5 = (0 : BitVec 5)) }

/-- Three bytes placed where the next step fetches. -/
def placeFetch (b0 b1 b2 : Byte) (s : State) : State :=
  placeByte (s.pc + 2) b2 (placeByte (s.pc + 1) b1 (placeByte s.pc b0 (readyToFetch s)))

end Sys2Proof.Machine
end

