-- ==== Sys2Proof/Machine/Step.lean ====
section
/-! DEFINITION. One step of the machine, which is one simulated cycle (00_scope.md R6, 70_reset_and_hazards.md R910), and
the host's way to put an instruction where the next step fetches. -/

namespace Sys2Proof.Machine

/-- One simulated cycle: timer, display, CPU, and the cycle counter (R910). A machine that holds a fault stops with it
(R702). -/
def step (s : State) : Host.Outcome State Fault Refusal := cycleStep s

/-- The state with the instruction of an opcode-table row stored at the pc, ready to be fetched by the next step. -/
def State.withFetchWord (s : State) (nbits w : Nat) : State :=
  match tableBytes nbits w with
  | (b0, b1, b2) => placeFetch b0 b1 b2 s

end Sys2Proof.Machine
end

