-- ==== Sys2Proof/Machine/Launch.lean ====
section
/-! DEFINITION. The host's side of the block (70_reset_and_hazards.md sections 1 to 4): construction in one of the two
launch states, the run loop, the end of a run, frames, saving and restoring. The host acts only between runs (R930). -/

namespace Sys2Proof.Machine

/-! ## Construction (R900, R901, R906, R930) -/

/-- `BOOT_MODE` (00_scope.md R9). -/
inductive BootMode where
  | runBootRom
  | postBoot
  deriving DecidableEq, Repr

/-- A launch: `CART`, and the parameters of 00_scope.md R9. The byte strings are given as cells, zero where no cell
says otherwise; cells outside the store they are for are dropped. -/
structure Launch where
  romSize : Nat
  cart : List Host.Cell
  bootRom : List Host.Cell
  bootMode : BootMode
  /-- `INIT_MEM`, store by store -/
  initWram : List Host.Cell
  initVram : List Host.Cell
  initOam : List Host.Cell
  initHram : List Host.Cell
  initCartRam : List Host.Cell
  eiDelay : Bool
  haltBug : Bool
  deriving DecidableEq, Repr

/-- The reset state R901 of a launch whose cartridge the loader has accepted. -/
def bootRomState (l : Launch) (cart : Cart) : State :=
  { regs := Regs.reset, pc := 0, sp := 0, ime := false, ie := 0, iflag := 0, nextCycle := .cycle 0,
    imePending := false, haltBugPending := false, fault := none, hram := memOfCells 127 l.initHram,
    timer := Timer.reset, lcd := Lcd.reset (memOfCells 8192 l.initVram) (memOfCells 160 l.initOam),
    wram := memOfCells 8192 l.initWram, bootDisabled := false, bootRom := memOfCells 256 l.bootRom, cart := cart,
    cycles := 0, params := { eiDelay := l.eiDelay, haltBug := l.haltBug } }

/-- The post-boot state R906: R901 with the values it replaces. -/
def postBootState (l : Launch) (cart : Cart) : State :=
  let s := bootRomState l cart
  { s with
    regs := { a := 0x01, f := flagsOfByte 0xB0, b := 0x00, c := 0x13, d := 0x00, e := 0xD8, h := 0x01, l := 0x4D }
    sp := 0xFFFE
    pc := 0x0100
    iflag := 0x01
    timer := { s.timer with tcount := 0xABCC }
    lcd := { s.lcd with lcdc := 0x91, bgp := 0xFC }
    bootDisabled := true }

/-- `construct`: a machine in its launch state, or the loader's refusal and no machine (R930, 20_memory.md R225). -/
def construct (l : Launch) : Except Refusal State :=
  match loadCart l.romSize l.cart l.initCartRam with
  | .error r => .error r
  | .ok cart => .ok (match l.bootMode with
    | .runBootRom => bootRomState l cart
    | .postBoot => postBootState l cart)

/-! ## The run loop (R910, R911) -/

/-- How `run_until` returns: `Ok`, `Faulted(info)`, each with the state reached, or a refusal that steps nothing. -/
inductive RunOutcome where
  | ok (s : State)
  | faulted (f : Fault) (s : State)
  | refused (r : Refusal)
  deriving DecidableEq, Repr

/-- A number of cycles, stopped after the one that raises a fault. -/
def runCycles : Nat → State → RunOutcome
  | 0, s => .ok s
  | n + 1, s =>
    match cycleStep s with
    | .next s' =>
      match s'.fault with
      | some f => .faulted f s'
      | none => runCycles n s'
    | .fault f => .faulted f s
    | .refused r => .refused r

/-- `run_until(t)` (R910): refused when t is past, which leaves the machine as it is (R911). -/
def runUntil (t : Nat) (s : State) : RunOutcome :=
  if t < s.cycles then .refused (.schedulingViolation t s.cycles)
  else match s.fault with
    | some f => .faulted f s
    | none => runCycles (t - s.cycles) s

/-! ## The end of a run (R931) -/

/-- The CPU is halted for good: HALTED while `IE and 0x1F = 0`, so that nothing wakes it (R931, 45_system.md R609). -/
def finalHalt (s : State) : Bool := decide (s.nextCycle = .halted) && decide (s.ie.setWidth 5 = (0 : BitVec 5))

/-- The cycle that leads from `s` to `t` is a final halt: its CPU step is at a fetch boundary, and sets `next_cycle` to
HALTED while `IE and 0x1F = 0`. -/
def haltsForGood (s t : State) : Bool := atBoundary (wake (devicesStep s)) && finalHalt t

/-- The end state of a run that halts for good within `n` cycles of `s`: the state after the first such cycle. `none`
where no cycle of the `n` is one, or a fault ends them; a faulted state is not an end. -/
def runToFinalHalt : Nat → State → Option State
  | 0, _ => none
  | n + 1, s =>
    match cycleStep s with
    | .next t => if haltsForGood s t then some t else runToFinalHalt n t
    | .fault _ => none
    | .refused _ => none

/-- The bounded end at `T`: the state after `construct` and then `run_until(T)` returning `Ok`; `none` where the loader
refuses or the run faults. -/
def boundedEnd (l : Launch) (T : Nat) : Option State :=
  match construct l with
  | .error _ => none
  | .ok s =>
    match runUntil T s with
    | .ok t => some t
    | .faulted _ _ => none
    | .refused _ => none

/-- The end state of a launch's run at its final halt, looked for in the first `n` cycles. -/
def finalHaltEnd (l : Launch) (n : Nat) : Option State :=
  match construct l with
  | .error _ => none
  | .ok s => runToFinalHalt n s

/-- The two ways a run ends. -/
inductive RunEnd where
  | bounded (T : Nat)
  | finalHalt
  deriving DecidableEq, Repr

/-- The run of the launch ends in this way, in the state `t`. A run that ends in neither way does not end. -/
def EndsIn (l : Launch) (e : RunEnd) (t : State) : Prop :=
  match e with
  | .bounded T => boundedEnd l T = some t
  | .finalHalt => ∃ n, finalHaltEnd l n = some t

/-- What is observable at a final halt: every other field of the state belongs to an agent that steps on. `oam` is
`none` while a DMA copy runs. (At a bounded end every field is observable: the state itself.) -/
structure FinalHaltView where
  regs : Regs
  pc : Word
  sp : Word
  ime : Bool
  ie : Byte
  wram : Mem
  hram : Mem
  vram : Mem
  cartRam : Mem
  ramEnable : Bool
  romBank5 : BitVec 5
  bank2 : BitVec 2
  bankMode : Bool
  bootDisabled : Bool
  oam : Option Mem
  deriving DecidableEq, Repr

/-- The view of an end state at a final halt. -/
def finalHaltView (s : State) : FinalHaltView :=
  { regs := s.regs, pc := s.pc, sp := s.sp, ime := s.ime, ie := s.ie, wram := s.wram, hram := s.hram, vram := s.lcd.vram,
    cartRam := s.cart.ram, ramEnable := s.cart.ramEnable, romBank5 := s.cart.romBank5, bank2 := s.cart.bank2,
    bankMode := s.cart.bankMode, bootDisabled := s.bootDisabled,
    oam := if s.lcd.dmaIndex = 160 then some s.lcd.oam else none }

/-! ## Frames (R930, 60_exceptions.md R859) -/

/-- `frame()`. -/
def exposedFrame (s : State) : Frame := s.lcd.frameOut

/-- `frame()`, serialized. -/
def exposedFrameBytes (s : State) : List Byte := serializeFrame s.lcd.frameOut

/-! ## Save and restore (R935): a saved state is the state itself -/

/-- `save()`. -/
def saveState (s : State) : State := s

/-- A saved state fits the machine: the same controller and cartridge RAM size. Log entry 8. -/
def saveFits (saved s : State) : Bool :=
  decide (saved.cart.kind = s.cart.kind) && decide (saved.cart.ramSize = s.cart.ramSize)

/-- `restore(saved)`: the whole state is replaced but for `CART`, `BOOT_ROM` and the parameters, or nothing is. -/
def restoreState (saved s : State) : Except Refusal State :=
  if saveFits saved s then
    .ok { saved with cart := { saved.cart with romSize := s.cart.romSize, rom := s.cart.rom },
                     bootRom := s.bootRom, params := s.params }
  else .error .saveStateMismatch

end Sys2Proof.Machine
end

