-- ==== Sys2Proof/Safety.lean ====
section
/-! DEFINITION. The terms claims are stated in: the invariant of the machine, what a write through the bus may change,
and what an instruction leaves unchanged. -/

namespace Sys2Proof.Machine

/-! ## The invariant -/

/-- Every store is in canonical form and inside its size (20_memory.md R214, 10_state.md). -/
structure StoresOk (s : State) : Prop where
  hram : s.hram.wf = true ∧ memWithin 127 s.hram = true
  wram : s.wram.wf = true ∧ memWithin 8192 s.wram = true
  vram : s.lcd.vram.wf = true ∧ memWithin 8192 s.lcd.vram = true
  oam : s.lcd.oam.wf = true ∧ memWithin 160 s.lcd.oam = true
  bootRom : s.bootRom.wf = true ∧ memWithin 256 s.bootRom = true
  cartRom : s.cart.rom.wf = true ∧ memWithin s.cart.romSize s.cart.rom = true
  cartRam : s.cart.ram.wf = true ∧ memWithin s.cart.ramSize s.cart.ram = true

/-- The cartridge is one the loader makes: the image and RAM sizes are those of its controller, and MBC1's bank register
is never 0 (20_memory.md R225, R232). -/
structure CartOk (c : Cart) : Prop where
  bank5 : c.romBank5 ≠ 0
  size : 0x150 ≤ c.romSize
  mbc0 : c.kind = .mbc0 → c.romSize = 32768 ∧ c.ramSize = 0
  mbc1 : c.kind = .mbc1 → c.romSize ∈ mbc1RomSizes ∧ c.ramSize ∈ [0, 2048, 8192, 32768]

/-- The display's state machine: LY stays below 154, mode 1 is V-blank's lines, a disabled display shows line 0 and mode 0
with its counter HALTED, and the DMA index stays in its range (60_exceptions.md R803, R804, R840; 10_state.md R138). -/
structure LcdOk (l : Lcd) : Prop where
  vblankLines : l.mode = .vblank → 144 ≤ l.ly.toNat ∧ l.ly.toNat < 154
  visibleLines : l.mode ≠ .vblank → l.ly.toNat < 144
  off : lcdcBit l 7 = false → l.lcdNext = .halted ∧ l.ly = 0 ∧ l.mode = .hblank
  dma : l.dmaIndex ≤ 160

/-- Neither counter lies in the past, and the open behaviours leave their mark only where their parameter is set
(45_system.md R602, R606; 10_state.md R110). -/
structure SequencingOk (s : State) : Prop where
  cpuNext : s.fault = none → ∀ n, s.nextCycle = .cycle n → s.cycles ≤ n
  lcdNext : ∀ n, s.lcd.lcdNext = .cycle n → s.cycles ≤ n
  eiDelay : s.imePending = true → s.params.eiDelay = true
  haltBug : s.haltBugPending = true → s.params.haltBug = true

/-- The invariant that every step keeps. -/
structure State.Inv (s : State) : Prop where
  stores : StoresOk s
  cart : CartOk s.cart
  lcd : LcdOk s.lcd
  sequencing : SequencingOk s

/-! ## What a bus write may change -/

/-- The two addresses are the same work-RAM cell, one through the echo (20_memory.md R215). -/
def echoAlias (a b : Word) : Bool :=
  (decide (0xC000 ≤ a.toNat) && decide (a.toNat < 0xDE00) && decide (b.toNat = a.toNat + 0x2000)) ||
  (decide (0xE000 ≤ a.toNat) && decide (a.toNat < 0xFE00) && decide (b.toNat + 0x2000 = a.toNat))

/-- Address `b` is in cartridge RAM's window. -/
def inCartRam (b : Word) : Bool := decide (0xA000 ≤ b.toNat) && decide (b.toNat < 0xC000)

/-- What a write at `a` to an MBC1 cartridge may change at `b`: the banks a control register selects, or the cells that
are one RAM byte (20_memory.md R231 to R237). -/
def mbc1Reach (c : Cart) (a b : Word) : Bool :=
  decide (c.kind = .mbc1) &&
    if a.toNat < 0x2000 then inCartRam b
    else if a.toNat < 0x4000 then decide (0x4000 ≤ b.toNat) && decide (b.toNat < 0x8000)
    else if a.toNat < 0x6000 then decide (b.toNat < 0x8000) || inCartRam b
    else if a.toNat < 0x8000 then decide (b.toNat < 0x4000) || inCartRam b
    else inCartRam a && inCartRam b && decide (a.toNat % c.ramSize = b.toNat % c.ramSize)

/-- What a write of a register with side effects may change at `b` (20_memory.md R243): DIV and TAC reach TIMA and IF,
LCDC reaches STAT, LY and IF, LYC reaches STAT and IF, 0xFF50 uncovers the cartridge below 0x0100. -/
def registerReach (a b : Word) : Bool :=
  ((a == 0xFF04 || a == 0xFF07) && (b == 0xFF05 || b == 0xFF0F)) ||
  (a == 0xFF40 && (b == 0xFF41 || b == 0xFF44 || b == 0xFF0F)) ||
  (a == 0xFF45 && (b == 0xFF41 || b == 0xFF0F)) ||
  (a == 0xFF50 && decide (b.toNat ≤ 0x00FF))

/-- A write at `a` may change what a read of `b` answers. -/
def writeReaches (s : State) (a b : Word) : Bool :=
  a == b || echoAlias a b || mbc1Reach s.cart a b || registerReach a b

/-- The addresses whose device stores the written byte and returns it unchanged (20_memory.md R250). -/
def storesByte (s : State) (a : Word) : Bool :=
  (decide (0x8000 ≤ a.toNat) && decide (a.toNat < 0xA000)) ||
  (inCartRam a && decide (s.cart.kind = .mbc1) && mbc1RamOpen s.cart) ||
  (decide (0xC000 ≤ a.toNat) && decide (a.toNat < 0xFEA0)) ||
  (decide (0xFF80 ≤ a.toNat)) ||
  a == 0xFF05 || a == 0xFF06 || a == 0xFF40 || a == 0xFF42 || a == 0xFF43 || a == 0xFF45 || a == 0xFF46 ||
  a == 0xFF47 || a == 0xFF48 || a == 0xFF49 || a == 0xFF4A || a == 0xFF4B

/-- The addresses that no device claims: a read answers 0xFF (20_memory.md R213). -/
def unclaimed (s : State) (a : Word) : Bool :=
  (decide (0xFEA0 ≤ a.toNat) && decide (a.toNat < 0xFF04)) ||
  (decide (0xFF08 ≤ a.toNat) && decide (a.toNat < 0xFF0F)) ||
  (decide (0xFF10 ≤ a.toNat) && decide (a.toNat < 0xFF40)) ||
  (decide (0xFF4C ≤ a.toNat) && decide (a.toNat < 0xFF80)) ||
  (inCartRam a && decide (s.cart.kind = .mbc0))

/-! ## What an instruction leaves unchanged -/

/-- Every byte of the address space reads the same, and so do the stores, the devices, the cycle counter and the
parameters behind it. -/
structure SameDevices (s t : State) : Prop where
  reads : ∀ a : Word, busRead a t = busRead a s
  ie : t.ie = s.ie
  iflag : t.iflag = s.iflag
  hram : t.hram = s.hram
  timer : t.timer = s.timer
  lcd : t.lcd = s.lcd
  wram : t.wram = s.wram
  bootDisabled : t.bootDisabled = s.bootDisabled
  bootRom : t.bootRom = s.bootRom
  cart : t.cart = s.cart
  cycles : t.cycles = s.cycles
  params : t.params = s.params

/-- The interrupt and fault state of the CPU is unchanged. -/
structure SameControl (s t : State) : Prop where
  ime : t.ime = s.ime
  imePending : t.imePending = s.imePending
  haltBugPending : t.haltBugPending = s.haltBugPending
  fault : t.fault = s.fault

/-- Every cell of the register file but those of `except` is unchanged. F counts as a cell. -/
def SameRegs (except : List RegId) (s t : State) : Prop := ∀ r, r ∉ except → readReg r t = readReg r s

/-- The devices after one byte is stored at `a`: those the bus write leaves, and every address it does not reach reads
as before. -/
structure StoredByte (a : Word) (v : Byte) (s t : State) : Prop where
  devices : SameDevices (busWrite a v s) t
  outside : ∀ b : Word, writeReaches s a b = false → busRead b t = busRead b s

/-- The devices after two bytes are stored, `v1` at `a1` and then `v2` at `a2`. -/
structure StoredTwo (a1 : Word) (v1 : Byte) (a2 : Word) (v2 : Byte) (s t : State) : Prop where
  devices : SameDevices (busWrite a2 v2 (busWrite a1 v1 s)) t
  outside : ∀ b : Word, writeReaches s a1 b = false → writeReaches (busWrite a1 v1 s) a2 b = false →
    busRead b t = busRead b s

/-- Control is at `target`, and the next fetch boundary `cost` cycles after the current one (60_exceptions.md R711). -/
def EndsAt (target : Word) (cost : Nat) (s t : State) : Prop :=
  t.pc = target ∧ t.nextCycle = .cycle (s.cycles + cost)

/-- Where an instruction that does not transfer control ends: `len` bytes on (10_state.md R105), `cost` cycles later. -/
def EndsAfter (len : Nat) (cost : Nat) (s t : State) : Prop :=
  t.pc.toNat = (s.pc.toNat + len) % 65536 ∧ t.nextCycle = .cycle (s.cycles + cost)

/-- An instruction that only computes into the register file and sp: `except` are the cells it may write, `sp` what the
stack pointer is after it, and nothing else of the machine is touched but pc and `next_cycle`. -/
structure OnlyRegs (except : List RegId) (sp : Word) (s t : State) : Prop where
  regs : SameRegs except s t
  sp : t.sp = sp
  control : SameControl s t
  devices : SameDevices s t

/-- An instruction that stores the byte `v` at `a`, and writes no cell but those of `except`. -/
structure OnlyStore (except : List RegId) (a : Word) (v : Byte) (s t : State) : Prop where
  regs : SameRegs except s t
  sp : t.sp = s.sp
  control : SameControl s t
  stored : StoredByte a v s t

/-- The word `v` is on the stack, its high byte at the higher address and written first (40_loads.md R430, 44_control.md
R560), and no register changed but sp. -/
structure Pushed (v : Word) (s t : State) : Prop where
  regs : SameRegs [] s t
  sp : t.sp = s.sp - 2
  control : SameControl s t
  stored : StoredTwo (s.sp - 1) (hiByte v) (s.sp - 2) (loByte v) s t

/-! ## ALU results, over the integers -/

/-- The flags after an instruction. -/
def FlagsAre (z n h c : Bool) (t : State) : Prop := t.regs.f = { z := z, n := n, h := h, c := c }

/-- `a + m + cin` (41_alu8.md R450). -/
structure AddsTo (a m : Byte) (cin : Bool) (v : Byte) (f : Flags) : Prop where
  value : v.toNat = (a.toNat + m.toNat + cin.toNat) % 256
  zero : f.z = true ↔ (a.toNat + m.toNat + cin.toNat) % 256 = 0
  subtract : f.n = false
  half : f.h = true ↔ 16 ≤ a.toNat % 16 + m.toNat % 16 + cin.toNat
  carry : f.c = true ↔ 256 ≤ a.toNat + m.toNat + cin.toNat

/-- `a - m - bin` (41_alu8.md R451). -/
structure SubtractsTo (a m : Byte) (bin : Bool) (v : Byte) (f : Flags) : Prop where
  value : (v.toNat : Int) = ((a.toNat : Int) - m.toNat - bin.toNat) % 256
  zero : f.z = true ↔ ((a.toNat : Int) - m.toNat - bin.toNat) % 256 = 0
  subtract : f.n = true
  half : f.h = true ↔ a.toNat % 16 < m.toNat % 16 + bin.toNat
  carry : f.c = true ↔ a.toNat < m.toNat + bin.toNat

/-- Bit by bit, `v` is a rotation, shift or swap: bit i of v is `src i` (43_rotate_shift_bit.md R521). -/
def BitsFrom (src : Nat → Bool) (v : Byte) : Prop := ∀ i, i < 8 → v.getLsbD i = src i

/-! ## Encodings -/

/-- These bytes, whatever follows them, are this instruction: the Encoding line of its rule. -/
def ReadFrom (bytes : List Byte) (i : Instr) : Prop := ∀ rest, decode (bytes ++ rest) = .ok (i, rest)

/-! ## Interrupt requests and timer ticks -/

/-- What an LCD_STAT request adds to IF, when it is made (60_exceptions.md R721). -/
def statIrq (made : Bool) : BitVec 5 := if made then 2 else 0

/-- The timer after a change of its counter and control: with a falling edge of its state TIMA counts, or reloads and
requests the timer interrupt; TMA, and all of the machine but the timer and IF, are as before (60_exceptions.md R761 to
R765). -/
structure TimerMoves (tcount : Word) (tac : BitVec 3) (s t : State) : Prop where
  rest : t = { s with timer := t.timer, iflag := t.iflag }
  tcount : t.timer.tcount = tcount
  tac : t.timer.tac = tac
  tma : t.timer.tma = s.timer.tma
  noEdge : ¬ (timerState s.timer = true ∧ timerState t.timer = false) → t.timer.tima = s.timer.tima ∧ t.iflag = s.iflag
  counts : timerState s.timer = true → timerState t.timer = false → s.timer.tima ≠ 0xFF →
    t.timer.tima = s.timer.tima + 1 ∧ t.iflag = s.iflag
  reloads : timerState s.timer = true → timerState t.timer = false → s.timer.tima = 0xFF →
    t.timer.tima = s.timer.tma ∧ t.iflag = s.iflag ||| 4

/-! ## Pixels, one by one -/

/-- The color index at `row` and `col` of the 256 x 256 picture of the tile map `map` bytes into video RAM: the tile
number there, the tile's row by LCDC bit 4, and bit 7 of its two bytes leftmost (60_exceptions.md R820, R821). -/
def mapColorIndex (l : Lcd) (map row col : Nat) : Nat :=
  let tile := memRead l.vram (map + 32 * (row / 8) + col / 8)
  let base := if lcdcBit l 4 then 16 * tile.toNat else (0x1000 + 16 * tile.toInt).toNat
  let lo := memRead l.vram (base + 2 * (row % 8))
  let hi := memRead l.vram (base + 2 * (row % 8) + 1)
  2 * (hi.getLsbD (7 - col % 8)).toNat + (lo.getLsbD (7 - col % 8)).toNat

/-- The color index of a sprite's pixel in column `x` of line `y`, which the sprite lies on: 0 outside its eight columns
(60_exceptions.md R825). -/
def spriteColorIndex (l : Lcd) (y : Byte) (e : Sprite) (x : Nat) : Nat :=
  if e.x.toNat ≤ x + 8 ∧ x + 8 < e.x.toNat + 8 then
    let line := y.toNat + 16 - e.y.toNat
    let row := if e.attr.getLsbD 6 then spriteHeight l - 1 - line else line
    let tile := if spriteHeight l = 16 then e.tile.toNat / 2 * 2 else e.tile.toNat
    let col := x + 8 - e.x.toNat
    let bit := if e.attr.getLsbD 5 then col else 7 - col
    let lo := memRead l.vram (16 * tile + 2 * row)
    let hi := memRead l.vram (16 * tile + 2 * row + 1)
    2 * (hi.getLsbD bit).toNat + (lo.getLsbD bit).toNat
  else 0

/-- Pixel `x` of the line is of this color index before the palette: opaque exactly when that is not 0 (60_exceptions.md
R821, R825, R857). -/
structure PixelFrom (palette : Byte) (index : Nat) (p : PixelLine 160) (x : Nat) : Prop where
  color : pixelColor p x = palette.toNat / 2 ^ (2 * index) % 4
  opaque_ : p.opacity.getLsbD x = decide (index ≠ 0)

end Sys2Proof.Machine
end

