-- ==== Sys2Proof/Certificates/Slice0/Obligations.lean ====
section
/-! DEFINITION. The statements for the provers, each from numbered rules of the spec. The terms they use are in
Sys2Proof/Safety.lean. Every statement with hypotheses has its witness in Sys2Proof/Tests/Slice0.lean. -/

open Sys2Proof Sys2Proof.Machine

/-- Decoding the encoding of any well-formed instruction gives it back, and leaves the bytes after it. Derived from R300, R301, R304, R305, R306, R307, R308, R309. -/
def Obligations.DecodeOfEncode : Prop :=
  ∀ (i : Instr) (rest : List Byte), i.wellFormed = true → decode (encode i ++ rest) = .ok (i, rest)

/-- Encoding what the decoder answers gives back the bytes the instruction occupies. Derived from R301, R307, R308, R309, R313. -/
def Obligations.EncodeOfDecode : Prop :=
  ∀ op n1 n2 : Byte, encode (decode3 op n1 n2) = [op, n1, n2].take (opLength op)

/-- Every byte sequence decodes to a well-formed instruction, and to ILLEGAL exactly for the eleven unassigned bytes. Derived from R310, R313. -/
def Obligations.DecodeIsTotal : Prop :=
  ∀ op n1 n2 : Byte, (decode3 op n1 n2).wellFormed = true ∧
    (∀ b, decode3 op n1 n2 = .illegal b ↔ b = op ∧ op ∈ illegalOpcodes) ∧
    (∀ b, decodeCb n1 ≠ .illegal b)

/-- A few words written out from the opcode maps decode to the instructions they stand for. Derived from R308, R309, R311, R312. -/
def Obligations.DecodeOfWrittenWords : Prop :=
  decode [0x78] = .ok (.ldRR .a .b, []) ∧
  decode [0x01, 0x34, 0x12] = .ok (.ldRpN16 .bc 0x1234, []) ∧
  decode [0x76] = .ok (.halt, []) ∧
  decode [0x96] = .ok (.subInd, []) ∧
  decode [0x20, 0x05] = .ok (.jrCc .nz 0x05, []) ∧
  decode [0xF5] = .ok (.push .af, []) ∧
  decode [0xFF] = .ok (.rst 7, []) ∧
  decode [0xDC, 0x00, 0x02] = .ok (.callCc .c 0x0200, []) ∧
  decode [0xCB, 0x37] = .ok (.swapR .a, []) ∧
  decode [0xCB, 0x7C] = .ok (.bitR 7 .h, []) ∧
  decode [0xCB, 0xC6] = .ok (.setInd 0, [])

/-- At a fetch boundary that services no interrupt, step runs the instruction whose bytes are at the pc. Derived from R16, R710, R711, R910. -/
def Obligations.StepRunsDecoded : Prop :=
  ∀ (s : State) (i : Instr) (rest : List Byte), s.fault = none →
    let d := wake (devicesStep s)
    atBoundary d = true → serviceDue d = false → d.haltBugPending = false →
    decode [busRead d.pc d, busRead (d.pc + 1) d, busRead (d.pc + 2) d] = .ok (i, rest) →
    step s = mapNext (fun t => endCycle (finishBoundary d t)) (exec i d)

/-- A HALT-bug fetch reads the byte at the pc twice, runs its instruction at pc - 1, and is then over; a service pushes pc - 1. Derived from R14, R610, R702. That a HALT run by such a fetch leaves halt_bug_pending 0, and that a fault there records pc - 1 and leaves pc at the opcode (finishBoundary), is the model's reading: log entry 7. -/
def Obligations.HaltBugFetch : Prop :=
  ∀ s : State, s.fault = none →
    let d := wake (devicesStep s)
    atBoundary d = true → d.haltBugPending = true →
    (∀ (i : Instr) (rest : List Byte), serviceDue d = false →
      decode [busRead d.pc d, busRead (d.pc - 1 + 1) d, busRead (d.pc - 1 + 2) d] = .ok (i, rest) →
      step s = mapNext (fun t => endCycle (finishBoundary d t)) (exec i { d with pc := d.pc - 1 }) ∧
      (∀ t, step s = .next t → t.fault = none → t.haltBugPending = false)) ∧
    (serviceDue d = true → ∃ u t : State,
      u = { d with ime := false, imePending := false, haltBugPending := false, iflag := u.iflag } ∧
      step s = .next (endCycle t) ∧ Pushed (d.pc - 1) u t)

/-- An interrupt service takes the lowest-numbered enabled-and-pending interrupt and enters its handler. States R723, R730. -/
def Obligations.InterruptService : Prop :=
  ∀ s : State, s.fault = none →
    let d := wake (devicesStep s)
    atBoundary d = true → serviceDue d = true →
    ∃ (i : Nat) (u t : State), i < 5 ∧ (pendingIrqs d).getLsbD i = true ∧
      (∀ j, j < i → (pendingIrqs d).getLsbD j = false) ∧
      u = { d with ime := false, imePending := false, haltBugPending := false, iflag := u.iflag } ∧
      (∀ j, j < 5 → u.iflag.getLsbD j = (decide (j ≠ i) && d.iflag.getLsbD j)) ∧
      step s = .next (endCycle t) ∧
      Pushed (if d.haltBugPending then d.pc - 1 else d.pc) u t ∧
      t.pc.toNat = 0x40 + 8 * i ∧ t.nextCycle = .cycle (d.cycles + 5)

/-- Between fetch boundaries only the devices step, and a halted CPU wakes exactly when an enabled interrupt is pending. Derived from R110, R609, R710, R880. -/
def Obligations.IdleAndHaltedCpu : Prop :=
  ∀ s : State, s.fault = none →
    let e := devicesStep s
    (∀ n, e.nextCycle = .cycle n → n ≠ e.cycles → step s = .next { e with cycles := s.cycles + 1 }) ∧
    (e.nextCycle = .halted → e.ie.setWidth 5 &&& e.iflag = 0 → step s = .next { e with cycles := s.cycles + 1 }) ∧
    (e.nextCycle = .halted → e.ie.setWidth 5 &&& e.iflag ≠ 0 → atBoundary (wake e) = true)

/-- A machine without a fault always completes its cycle: no step refuses, and none stops but on a fault it already holds. Derived from R313, R700, R910. -/
def Obligations.StepAlwaysAnswers : Prop :=
  ∀ s : State, (s.fault = none → ∃ t, step s = .next t ∧ t.cycles = s.cycles + 1) ∧ (∀ r, step s ≠ .refused r) ∧
    (∀ (i : Instr), ∃ t, exec i s = .next t)

/-- An enable that EI left pending takes effect at the end of the following instruction, unless it was cancelled or faulted. States R606. -/
def Obligations.EiPromotion : Prop :=
  ∀ s t : State, s.fault = none → step s = .next t →
    let d := wake (devicesStep s)
    (atBoundary d = true → serviceDue d = false →
      ∃ u, exec (fetchInstr d) { d with pc := fetchBase d } = .next u ∧
        (u.fault = none → d.imePending = true → u.imePending = true → t.ime = true ∧ t.imePending = false) ∧
        (u.fault ≠ none ∨ d.imePending = false ∨ u.imePending = false → t.ime = u.ime ∧ t.imePending = u.imePending)) ∧
    (s.params.eiDelay = false → s.imePending = false → t.imePending = false)

/-- Every step keeps the machine's invariant. Derived from R110, R133, R138, R142, R214, R225, R232, R803, R804, R840. -/
def Obligations.StepKeepsInvariant : Prop :=
  ∀ s t : State, s.Inv → step s = .next t → t.Inv

/-- The state after reset meets the invariant. Derived from R901. -/
def Obligations.ResetMeetsInvariant : Prop :=
  State.reset.Inv

/-- Every machine that construct makes meets the invariant and the launch premises. Derived from R225, R901, R906, R930. -/
def Obligations.ConstructMeetsInvariant : Prop :=
  ∀ (l : Launch) (s : State), construct l = .ok s →
    s.Inv ∧ s.fault = none ∧ s.imePending = false ∧ s.haltBugPending = false ∧ s.lcd.dmaIndex = 160 ∧ s.cycles = 0

/-- No step changes the cartridge image, the boot ROM or the parameters, or maps the boot ROM again. Derived from R9, R141, R142, R214, R220, R226, R750, R941. -/
def Obligations.StepKeepsRomsAndLatch : Prop :=
  ∀ s t : State, step s = .next t →
    t.cart.kind = s.cart.kind ∧ t.cart.romSize = s.cart.romSize ∧ t.cart.rom = s.cart.rom ∧ t.cart.ramSize = s.cart.ramSize ∧
    t.bootRom = s.bootRom ∧ t.params = s.params ∧ (s.bootDisabled = true → t.bootDisabled = true)

/-- A machine constructed with BOOT_MODE = RUN_BOOT_ROM holds the reset state of R901. States R901. -/
def Obligations.BootRomResetState : Prop :=
  ∀ (l : Launch) (s : State), construct l = .ok s → l.bootMode = .runBootRom →
    (∀ r, readReg r s = 0) ∧ s.pc = 0 ∧ s.sp = 0 ∧ s.ime = false ∧ s.ie = 0 ∧ s.iflag = 0 ∧ s.nextCycle = .cycle 0 ∧
    s.imePending = false ∧ s.haltBugPending = false ∧ s.fault = none ∧
    s.timer = { tcount := 0, tima := 0, tma := 0, tac := 0 } ∧
    s.lcd.lcdc = 0 ∧ s.lcd.statEn = 0 ∧ s.lcd.lycEq = false ∧ s.lcd.scy = 0 ∧ s.lcd.scx = 0 ∧ s.lcd.ly = 0 ∧ s.lcd.lyc = 0 ∧
    s.lcd.dma = 0 ∧ s.lcd.bgp = 0 ∧ s.lcd.obp0 = 0 ∧ s.lcd.obp1 = 0 ∧ s.lcd.wy = 0 ∧ s.lcd.wx = 0 ∧
    s.lcd.mode = .hblank ∧ s.lcd.lcdNext = .halted ∧ s.lcd.winLine = 0 ∧
    s.lcd.frameBuild = zeroFrame ∧ s.lcd.frameOut = zeroFrame ∧ s.lcd.dmaSrc = 0 ∧ s.lcd.dmaIndex = 160 ∧
    s.bootDisabled = false ∧ s.cart.ramEnable = false ∧ s.cart.romBank5 = 1 ∧ s.cart.bank2 = 0 ∧ s.cart.bankMode = false ∧
    s.cycles = 0 ∧
    s.hram = memOfCells 127 l.initHram ∧ s.wram = memOfCells 8192 l.initWram ∧ s.lcd.vram = memOfCells 8192 l.initVram ∧
    s.lcd.oam = memOfCells 160 l.initOam ∧ s.cart.ram = memOfCells s.cart.ramSize l.initCartRam ∧
    s.bootRom = memOfCells 256 l.bootRom ∧ s.params = { eiDelay := l.eiDelay, haltBug := l.haltBug }

/-- A machine constructed with BOOT_MODE = POST_BOOT holds the state of R906. States R906. -/
def Obligations.PostBootState : Prop :=
  ∀ (l : Launch) (s : State), construct l = .ok s → l.bootMode = .postBoot →
    readReg .a s = 0x01 ∧ readReg .f s = 0xB0 ∧ readBc s = 0x0013 ∧ readDe s = 0x00D8 ∧ readHl s = 0x014D ∧
    s.sp = 0xFFFE ∧ s.pc = 0x0100 ∧ busRead 0xFF0F s = 0xE1 ∧ busRead 0xFF04 s = 0xAB ∧ s.timer.tcount = 0xABCC ∧
    s.lcd.lcdc = 0x91 ∧ s.lcd.bgp = 0xFC ∧ s.bootDisabled = true ∧
    ∃ r : State, construct { l with bootMode := .runBootRom } = .ok r ∧
      s = { r with regs := s.regs, sp := s.sp, pc := s.pc, iflag := s.iflag, bootDisabled := true,
                   timer := { r.timer with tcount := s.timer.tcount },
                   lcd := { r.lcd with lcdc := s.lcd.lcdc, bgp := s.lcd.bgp } }

/-- The echo window is work RAM: reads and writes through either view are the same. States R215. -/
def Obligations.EchoMirrorsWorkRam : Prop :=
  ∀ (s : State) (a : Word),
    (0xE000 ≤ a.toNat → a.toNat < 0xFE00 →
      busRead a s = busRead (a - 0x2000) s ∧ busRead a s = memRead s.wram (a.toNat - 0xE000) ∧
      ∀ v, busWrite a v s = busWrite (a - 0x2000) v s) ∧
    (0xC000 ≤ a.toNat → a.toNat < 0xE000 → busRead a s = memRead s.wram (a.toNat - 0xC000))

/-- An address that no device claims reads 0xFF, and a write of it changes nothing. States R212, R213. -/
def Obligations.UnclaimedAddresses : Prop :=
  ∀ (s : State) (a : Word) (v : Byte), unclaimed s a = true →
    busRead a s = 0xFF ∧
    busWrite a v s = if a = 0xFF50 then { s with bootDisabled := true } else s

/-- A byte written to an address whose device stores it is read back from it; IF stores five bits and reads its other three as 1. Derived from R108, R109, R206, R216, R250. -/
def Obligations.ReadAfterWrite : Prop :=
  ∀ (s : State) (a : Word) (v : Byte),
    (storesByte s a = true → busRead a (busWrite a v s) = v) ∧
    busWrite 0xFF0F v s = { s with iflag := BitVec.ofNat 5 v.toNat } ∧
    (busRead 0xFF0F s).toNat = 0xE0 + s.iflag.toNat ∧
    busWrite 0xFFFF v s = { s with ie := v } ∧
    busRead 0xFFFF s = s.ie

/-- A bus write changes no read but of its own address, its echo, and what a register with side effects reaches. Derived from R206, R215, R220, R231, R232, R233, R234, R237, R243. -/
def Obligations.WriteReachesOnlyItsAddresses : Prop :=
  ∀ (s : State) (a b : Word) (v : Byte), writeReaches s a b = false → busRead b (busWrite a v s) = busRead b s

/-- The boot ROM answers below 0x0100 until any write of 0xFF50, and the cartridge answers and is written through the multiplexer. States R220. -/
def Obligations.BootRomMultiplexer : Prop :=
  ∀ (s : State) (a : Word) (v : Byte),
    (s.bootDisabled = false → a.toNat ≤ 0xFF → busRead a s = memRead s.bootRom a.toNat) ∧
    (s.bootDisabled = true ∨ 0xFF < a.toNat → a.toNat ≤ 0x7FFF ∨ 0xA000 ≤ a.toNat ∧ a.toNat ≤ 0xBFFF →
      busRead a s = (cartRead a.toNat s.cart).getD 0xFF) ∧
    (a.toNat ≤ 0x7FFF ∨ 0xA000 ≤ a.toNat ∧ a.toNat ≤ 0xBFFF →
      busWrite a v s = { s with cart := cartWrite a.toNat v s.cart }) ∧
    (0x7FFF < a.toNat → ¬ (0xA000 ≤ a.toNat ∧ a.toNat ≤ 0xBFFF) → muxRead a s = none) ∧
    busWrite 0xFF50 v s = { s with bootDisabled := true } ∧
    (a ≠ 0xFF50 → (busWrite a v s).bootDisabled = s.bootDisabled)

/-- MBC1: what each control write sets, and which ROM byte or RAM cell each read and write reaches. States R231, R232, R233, R234, R235, R236, R237. -/
def Obligations.Mbc1Banking : Prop :=
  ∀ (s : State) (a : Word) (v : Byte), s.cart.kind = .mbc1 →
    (a.toNat < 0x2000 → busWrite a v s = { s with cart := { s.cart with ramEnable := decide (v.toNat % 16 = 10) } }) ∧
    (0x2000 ≤ a.toNat → a.toNat < 0x4000 → busWrite a v s =
      { s with cart := { s.cart with romBank5 := BitVec.ofNat 5 (if v.toNat % 32 = 0 then 1 else v.toNat % 32) } }) ∧
    (0x4000 ≤ a.toNat → a.toNat < 0x6000 → busWrite a v s =
      { s with cart := { s.cart with bank2 := BitVec.ofNat 2 v.toNat } }) ∧
    (0x6000 ≤ a.toNat → a.toNat < 0x8000 → busWrite a v s =
      { s with cart := { s.cart with bankMode := decide (v.toNat % 2 = 1) } }) ∧
    (a.toNat < 0x4000 → s.bootDisabled = true ∨ 0xFF < a.toNat → busRead a s =
      memRead s.cart.rom (((if s.cart.bankMode then s.cart.bank2.toNat * 32 else 0) * 0x4000 + a.toNat) % s.cart.romSize)) ∧
    (0x4000 ≤ a.toNat → a.toNat < 0x8000 → busRead a s =
      memRead s.cart.rom (((s.cart.bank2.toNat * 32 + s.cart.romBank5.toNat) * 0x4000 + (a.toNat - 0x4000)) % s.cart.romSize)) ∧
    (0xA000 ≤ a.toNat → a.toNat < 0xC000 →
      (s.cart.ramEnable = false ∨ s.cart.ramSize = 0 → busRead a s = 0xFF ∧ busWrite a v s = s) ∧
      (s.cart.ramEnable = true → s.cart.ramSize ≠ 0 →
        let i := ((if s.cart.bankMode then s.cart.bank2.toNat else 0) * 0x2000 + (a.toNat - 0xA000)) % s.cart.ramSize
        busRead a s = memRead s.cart.ram i ∧
        busWrite a v s = { s with cart := { s.cart with ram := memWrite s.cart.ram i v } })) ∧
    (0x8000 ≤ a.toNat → ¬ (0xA000 ≤ a.toNat ∧ a.toNat < 0xC000) →
      cartRead a.toNat s.cart = none ∧ cartWrite a.toNat v s.cart = s.cart) ∧
    (s.cart.romBank5 ≠ 0 → ∀ k, s.cart.bank2.toNat * 32 + s.cart.romBank5.toNat ≠ 0x20 * k)

/-- Which images the loader accepts, and the controller and RAM size it gives them. States R225. Which byte is recorded for an image that ends before offset 0x147 is not stated: the model's choice is log entry 13. -/
def Obligations.CartridgeLoad : Prop :=
  ∀ (n : Nat) (image ram : List Host.Cell),
    let rom := memOfCells n image
    let t := memRead rom 0x147
    let r := memRead rom 0x149
    let banked := (t = 1 ∨ t = 2 ∨ t = 3) ∧ (∃ k, 15 ≤ k ∧ k ≤ 21 ∧ n = 2 ^ k) ∧ r.toNat ≤ 3
    (0x150 ≤ n → t = 0 → n = 32768 → ∃ c, loadCart n image ram = .ok c ∧ c.kind = .mbc0 ∧ c.rom = rom ∧ c.romSize = n ∧ c.ramSize = 0) ∧
    (0x150 ≤ n → banked → ∃ c, loadCart n image ram = .ok c ∧ c.kind = .mbc1 ∧ c.rom = rom ∧ c.romSize = n ∧
      c.ramSize = (if r = 0 then 0 else if r = 1 then 2048 else if r = 2 then 8192 else 32768)) ∧
    (¬ (0x150 ≤ n ∧ (t = 0 ∧ n = 32768 ∨ banked)) → ∃ h : Byte, (0x148 ≤ n → h = t) ∧
      loadCart n image ram = .error (.cartridgeUnsupported h n) ∧
      ∀ l : Launch, l.romSize = n → l.cart = image → construct l = .error (.cartridgeUnsupported h n))

/-- The timer's step advances its counter by 4, and a falling edge of the selected bit counts or reloads TIMA. States R761, R762, R763. -/
def Obligations.TimerStepTicksOnFallingEdge : Prop :=
  ∀ s : State, (timerStep s).timer.tcount.toNat = (s.timer.tcount.toNat + 4) % 65536 ∧
    TimerMoves (s.timer.tcount + 4) s.timer.tac s (timerStep s) ∧
    (∀ t : Timer, timerState t = (t.tac.getLsbD 2 && t.tcount.getLsbD
      (if t.tac.toNat % 4 = 0 then 9 else if t.tac.toNat % 4 = 1 then 3 else if t.tac.toNat % 4 = 2 then 5 else 7)))

/-- A write of DIV clears the whole counter and a write of TAC changes the selection, each with the edge check; what each reads. States R760, R761, R764, R765. -/
def Obligations.TimerRegisterWrites : Prop :=
  ∀ (s : State) (v : Byte),
    TimerMoves 0 s.timer.tac s (busWrite 0xFF04 v s) ∧
    TimerMoves s.timer.tcount (BitVec.ofNat 3 v.toNat) s (busWrite 0xFF07 v s) ∧
    busWrite 0xFF05 v s = { s with timer := { s.timer with tima := v } } ∧
    busWrite 0xFF06 v s = { s with timer := { s.timer with tma := v } } ∧
    (busRead 0xFF04 s).toNat = s.timer.tcount.toNat / 256 ∧ busRead 0xFF05 s = s.timer.tima ∧ busRead 0xFF06 s = s.timer.tma ∧
    (busRead 0xFF07 s).toNat = 0xF8 + s.timer.tac.toNat ∧
    devicesStep s = displayStep (timerStep s) ∧
    (∀ t : Timer, timerState t = (t.tac.getLsbD 2 && t.tcount.getLsbD
      (if t.tac.toNat % 4 = 0 then 9 else if t.tac.toNat % 4 = 1 then 3 else if t.tac.toNat % 4 = 2 then 5 else 7)))

/-- The display's state machine: what each mode's end does to mode, line, next cycle, frame and interrupts. States R804. -/
def Obligations.ScanlineSchedule : Prop :=
  ∀ s : State,
    let t := lcdStep s
    let l := s.lcd
    (lcdcBit l 7 = false → t = s) ∧
    (lcdcBit l 7 = true → l.lcdNext = .halted → t = lcdStart s) ∧
    (∀ n, lcdcBit l 7 = true → l.lcdNext = .cycle n → n ≠ s.cycles → t = s) ∧
    (LcdOk l → lcdcBit l 7 = true → l.lcdNext = .cycle s.cycles →
      t = { s with lcd := t.lcd, iflag := t.iflag } ∧
      (l.mode = .oamScan → t.iflag = s.iflag ∧
        t.lcd = { l with mode := .transfer, lcdNext := .cycle (s.cycles + 43), winLine := nextWinLine l l.ly,
                         frameBuild := l.frameBuild.setIfInBounds l.ly.toNat (renderLine l l.ly) }) ∧
      (l.mode = .transfer → t.iflag = s.iflag ||| statIrq (l.statEn.getLsbD 0) ∧
        t.lcd = { l with mode := .hblank, lcdNext := .cycle (s.cycles + 51) }) ∧
      (l.mode = .hblank → l.ly = 143 →
        t.iflag = s.iflag ||| statIrq ((l.lyc == 144 && l.statEn.getLsbD 3) || l.statEn.getLsbD 1) ||| 1 ∧
        t.lcd = { l with mode := .vblank, ly := 144, lycEq := l.lyc == 144, lcdNext := .cycle (s.cycles + 114),
                         frameOut := l.frameBuild }) ∧
      (l.mode = .hblank → l.ly ≠ 143 →
        t.iflag = s.iflag ||| statIrq ((l.ly + 1 == l.lyc && l.statEn.getLsbD 3) || l.statEn.getLsbD 2) ∧
        t.lcd = { l with mode := .oamScan, ly := l.ly + 1, lycEq := l.ly + 1 == l.lyc, lcdNext := .cycle (s.cycles + 20) }) ∧
      (l.mode = .vblank → l.ly = 153 →
        t.iflag = s.iflag ||| statIrq ((l.lyc == 0 && l.statEn.getLsbD 3) || l.statEn.getLsbD 2) ∧
        t.lcd = { l with mode := .oamScan, ly := 0, lycEq := l.lyc == 0, winLine := 0, lcdNext := .cycle (s.cycles + 20) }) ∧
      (l.mode = .vblank → l.ly ≠ 153 →
        t.iflag = s.iflag ||| statIrq (l.ly + 1 == l.lyc && l.statEn.getLsbD 3) ∧
        t.lcd = { l with ly := l.ly + 1, lycEq := l.ly + 1 == l.lyc, lcdNext := .cycle (s.cycles + 114) }))

/-- Enabling the display starts line 0 in mode 2 at its next step; disabling it forces line 0, mode 0 and HALTED at once. States R802, R803. -/
def Obligations.DisplayStartAndStop : Prop :=
  ∀ (s : State) (v : Byte),
    (lcdcBit s.lcd 7 = true → s.lcd.lcdNext = .halted →
      let t := lcdStep s
      t.lcd = { s.lcd with ly := 0, lycEq := s.lcd.lyc == 0, winLine := 0, mode := .oamScan, lcdNext := .cycle (s.cycles + 20) } ∧
      t.iflag = s.iflag ||| statIrq ((s.lcd.lyc == 0 && s.lcd.statEn.getLsbD 3) || s.lcd.statEn.getLsbD 2)) ∧
    (lcdcBit s.lcd 7 = true → v.getLsbD 7 = false →
      let t := busWrite 0xFF40 v s
      t.lcd = { s.lcd with lcdc := v, ly := 0, lycEq := s.lcd.lyc == 0, mode := .hblank, lcdNext := .halted } ∧
      t.iflag = s.iflag ||| statIrq (s.lcd.lyc == 0 && s.lcd.statEn.getLsbD 3)) ∧
    (lcdcBit s.lcd 7 = false ∨ v.getLsbD 7 = true → busWrite 0xFF40 v s = { s with lcd := { s.lcd with lcdc := v } }) ∧
    (lcdcBit s.lcd 7 = false → lcdStep s = s) ∧
    (LcdOk s.lcd → lcdcBit s.lcd 7 = false → (busRead 0xFF41 s).toNat % 4 = 0 ∧ busRead 0xFF44 s = 0) ∧
    (∀ a : Word, 0x8000 ≤ a.toNat → a.toNat < 0xA000 → busRead a s = memRead s.lcd.vram (a.toNat - 0x8000) ∧
      busWrite a v s = { s with lcd := { s.lcd with vram := memWrite s.lcd.vram (a.toNat - 0x8000) v } }) ∧
    (∀ a : Word, 0xFE00 ≤ a.toNat → a.toNat < 0xFEA0 → busRead a s = memRead s.lcd.oam (a.toNat - 0xFE00) ∧
      busWrite a v s = { s with lcd := { s.lcd with oam := memWrite s.lcd.oam (a.toNat - 0xFE00) v } })

/-- A write of LYC re-evaluates the match, a write of STAT stores bits 6 to 3 only, a write of LY is ignored. States R807, R808, R813. -/
def Obligations.LycAndStatWrites : Prop :=
  ∀ (s : State) (v : Byte),
    (busWrite 0xFF45 v s = { s with lcd := { s.lcd with lyc := v, lycEq := s.lcd.ly == v },
                                    iflag := s.iflag ||| statIrq (s.lcd.ly == v && s.lcd.statEn.getLsbD 3) }) ∧
    (busWrite 0xFF41 v s = { s with lcd := { s.lcd with statEn := BitVec.ofNat 4 (v.toNat / 8) } }) ∧
    (busRead 0xFF41 s).toNat = 0x80 + s.lcd.statEn.toNat * 8 + s.lcd.lycEq.toNat * 4 + modeCode s.lcd.mode ∧
    busWrite 0xFF44 v s = s ∧ busRead 0xFF44 s = s.lcd.ly ∧ busRead 0xFF45 s = s.lcd.lyc ∧ busRead 0xFF40 s = s.lcd.lcdc ∧
    busRead 0xFF42 s = s.lcd.scy ∧ busRead 0xFF43 s = s.lcd.scx ∧ busRead 0xFF46 s = s.lcd.dma ∧ busRead 0xFF47 s = s.lcd.bgp ∧
    busRead 0xFF48 s = s.lcd.obp0 ∧ busRead 0xFF49 s = s.lcd.obp1 ∧ busRead 0xFF4A s = s.lcd.wy ∧ busRead 0xFF4B s = s.lcd.wx ∧
    busWrite 0xFF42 v s = { s with lcd := { s.lcd with scy := v } } ∧ busWrite 0xFF43 v s = { s with lcd := { s.lcd with scx := v } } ∧
    busWrite 0xFF47 v s = { s with lcd := { s.lcd with bgp := v } } ∧ busWrite 0xFF48 v s = { s with lcd := { s.lcd with obp0 := v } } ∧
    busWrite 0xFF49 v s = { s with lcd := { s.lcd with obp1 := v } } ∧ busWrite 0xFF4A v s = { s with lcd := { s.lcd with wy := v } } ∧
    busWrite 0xFF4B v s = { s with lcd := { s.lcd with wx := v } }

/-- A write of DMA starts a copy from v * 256, and each display step copies one byte through the bus until 160 are done. States R840. -/
def Obligations.OamDmaCopiesOneByte : Prop :=
  ∀ (s : State) (v : Byte),
    (busWrite 0xFF46 v s = { s with lcd := { s.lcd with dma := v, dmaSrc := BitVec.ofNat 16 (v.toNat * 256), dmaIndex := 0 } }) ∧
    displayStep s = lcdStep (dmaStep s) ∧
    (s.lcd.dmaIndex < 160 →
      let t := dmaStep s
      t = { s with lcd := { s.lcd with oam := t.lcd.oam, dmaIndex := s.lcd.dmaIndex + 1 } } ∧
      memRead t.lcd.oam s.lcd.dmaIndex = busRead (s.lcd.dmaSrc + BitVec.ofNat 16 s.lcd.dmaIndex) s ∧
      (∀ j, j ≠ s.lcd.dmaIndex → memRead t.lcd.oam j = memRead s.lcd.oam j)) ∧
    (160 ≤ s.lcd.dmaIndex → dmaStep s = s) ∧
    (∀ k, (displayStep^[k] (busWrite 0xFF46 v s)).lcd.dmaIndex = min k 160)

/-- Which bit of the source each bit of a zero-extended, wrapped or shifted vector is. States R852, R854. -/
def Obligations.VectorExtraction : Prop :=
  ∀ (n : Nat) (v : BitVec n) (start : Int) (size j : Nat), 0 < n → j < size →
    (extractZeroExtended v start size).getLsbD j =
      (decide (0 ≤ start + j ∧ start + j < n) && v.getLsbD (start + j).toNat) ∧
    (extractWrapped v start size).getLsbD j = v.getLsbD ((start + j) % n).toNat ∧
    (j < n → (shiftBits v start).getLsbD j = (decide (0 ≤ (j : Int) - start ∧ (j : Int) - start < n) && v.getLsbD ((j : Int) - start).toNat))

/-- mapColors gives every pixel of color c the color p[2c+1:2c], and leaves opacity unchanged. States R857. -/
def Obligations.PaletteMapping : Prop :=
  ∀ (n : Nat) (p : PixelLine n) (palette : Byte),
    (∀ x, x < n → pixelColor (mapColors p palette) x = palette.toNat / 2 ^ (2 * pixelColor p x) % 4) ∧
    (mapColors p palette).opacity = p.opacity ∧ mapColors p 0xE4 = p

/-- Each background pixel is the palette color of its bit pair in its tile row, and opaque where that index is not 0. States R821. -/
def Obligations.BackgroundPixels : Prop :=
  ∀ (l : Lcd) (y : Byte) (x : Nat), x < 160 →
    let bx := (x + l.scx.toNat) % 256
    let by_ := (y.toNat + l.scy.toNat) % 256
    let tile := memRead l.vram ((if lcdcBit l 3 then 0x1C00 else 0x1800) + 32 * (by_ / 8) + bx / 8)
    let base := if lcdcBit l 4 then 16 * tile.toNat else (0x1000 + 16 * tile.toInt).toNat
    let lo := memRead l.vram (base + 2 * (by_ % 8))
    let hi := memRead l.vram (base + 2 * (by_ % 8) + 1)
    let index := 2 * (hi.getLsbD (7 - bx % 8)).toNat + (lo.getLsbD (7 - bx % 8)).toNat
    pixelColor (bgLine l y) x = l.bgp.toNat / 2 ^ (2 * index) % 4 ∧
    (bgLine l y).opacity.getLsbD x = decide (index ≠ 0)

/-- Pixel by pixel: a normal sprite where it is opaque, else a BEHIND_BG sprite over background color 0, else window or background. Derived from R820, R821, R822, R826, R827, R828. -/
def Obligations.LineComposition : Prop :=
  ∀ (l : Lcd) (y : Byte) (x : Nat), x < 160 →
    let fg := spriteLayer l y false
    let bgs := spriteLayer l y true
    let bg := bgWinLine l y
    pixelColor (renderLine l y) x =
      (if fg.opacity.getLsbD x then pixelColor fg x
       else if bgs.opacity.getLsbD x && !bg.opacity.getLsbD x then pixelColor bgs x
       else pixelColor bg x) ∧
    (lcdcBit l 0 = false → bg.opacity.getLsbD x = false ∧ pixelColor bg x = 0) ∧
    (let drawn : Prop := lcdcBit l 5 = true ∧ lcdcBit l 0 = true ∧ 7 ≤ l.wx.toNat ∧ l.wx.toNat ≤ 166 ∧ l.wy.toNat ≤ y.toNat
     (drawn → l.wx.toNat ≤ x + 7 → PixelFrom l.bgp
       (mapColorIndex l (if lcdcBit l 6 then 0x1C00 else 0x1800) l.winLine.toNat (x + 7 - l.wx.toNat)) bg x) ∧
     (lcdcBit l 0 = true → ¬ (drawn ∧ l.wx.toNat ≤ x + 7) → PixelFrom l.bgp
       (mapColorIndex l (if lcdcBit l 3 then 0x1C00 else 0x1800) ((y.toNat + l.scy.toNat) % 256) ((x + l.scx.toNat) % 256)) bg x) ∧
     (drawn → nextWinLine l y = l.winLine + 1) ∧ (¬ drawn → nextWinLine l y = l.winLine)) ∧
    (∀ behind : Bool,
      let here := ((selectSprites l y).filter (fun e => e.attr.getLsbD 7 == behind)).find?
        (fun e => (spriteLine l y e).opacity.getLsbD x)
      let layer := spriteLayer l y behind
      (∀ e, here = some e → layer.opacity.getLsbD x = true ∧ pixelColor layer x = pixelColor (spriteLine l y e) x) ∧
      (here = none → layer.opacity.getLsbD x = false ∧ pixelColor layer x = 0))

/-- A line's sprites: the first ten of OAM that lie on it, ordered by X and then by OAM index, and the pixels of each. States R824, R825. -/
def Obligations.SpriteSelection : Prop :=
  ∀ (l : Lcd) (y : Byte),
    let chosen := (((List.range 40).map (spriteAt l)).filter (fun e =>
      decide ((e.y.toNat : Int) - 16 ≤ y.toNat ∧ (y.toNat : Int) < (e.y.toNat : Int) - 16 + spriteHeight l))).take 10
    (lcdcBit l 1 = false → selectSprites l y = []) ∧
    (lcdcBit l 1 = true → (selectSprites l y).Perm chosen ∧
      (selectSprites l y).Pairwise (fun p q => p.x.toNat ≤ q.x.toNat) ∧
      ∀ x : Byte, (selectSprites l y).filter (fun e => e.x == x) = chosen.filter (fun e => e.x == x)) ∧
    (∀ e : Sprite, e.x = 0 ∨ 168 ≤ e.x.toNat → (spriteLine l y e).opacity = 0) ∧
    (∀ i, spriteAt l i = { y := memRead l.oam (4 * i), x := memRead l.oam (4 * i + 1), tile := memRead l.oam (4 * i + 2),
                           attr := memRead l.oam (4 * i + 3) }) ∧
    spriteHeight l = (if l.lcdc.getLsbD 2 then 16 else 8) ∧
    (∀ (e : Sprite) (x : Nat), x < 160 →
      (e.y.toNat : Int) - 16 ≤ y.toNat → (y.toNat : Int) < (e.y.toNat : Int) - 16 + spriteHeight l →
      PixelFrom (if e.attr.getLsbD 4 then l.obp1 else l.obp0) (spriteColorIndex l y e x) (spriteLine l y e) x)

/-- run_until refuses a past target, else reaches it or reports a fault; two runs compose; a run ends at its first final halt. Derived from R609, R702, R910, R911, R930, R931. -/
def Obligations.RunUntilReachesTarget : Prop :=
  ∀ (s : State) (t : Nat),
    (t < s.cycles → runUntil t s = .refused (.schedulingViolation t s.cycles)) ∧
    (s.cycles ≤ t → s.fault = none →
      (∃ u, runUntil t s = .ok u ∧ u.cycles = t ∧ u.fault = none) ∨
      (∃ f u, runUntil t s = .faulted f u ∧ u.fault = some f ∧ u.cycles ≤ t)) ∧
    (∀ s1 t2, runUntil t s = .ok s1 → t ≤ t2 → runUntil t2 s1 = runUntil t2 s) ∧
    (s.fault = none → finalHalt s = false → ∀ (n : Nat) (u : State), runToFinalHalt n s = some u ↔
      finalHalt u = true ∧ s.cycles < u.cycles ∧ u.cycles ≤ s.cycles + n ∧ runUntil u.cycles s = .ok u ∧
      ∀ m v, m < u.cycles → runUntil m s = .ok v → finalHalt v = false) ∧
    (s.fault = none → finalHalt s = true → atBoundary (wake (devicesStep s)) = false ∧
      ∃ u, step s = .next u ∧ finalHalt u = true ∧ u.fault = none ∧
        { finalHaltView u with oam := none } = { finalHaltView s with oam := none } ∧
        (s.lcd.dmaIndex = 160 → finalHaltView u = finalHaltView s))

/-- A saved state restored into a state of its machine gives back the state saved; one of another controller or RAM size is refused (model's choice). Derived from R701, R930, R935. R701 and R930 name the refusal SaveStateMismatch and R935 fixes no format: that it is given for another controller or RAM size is the model's choice, log entry 8. -/
def Obligations.SaveAndRestore : Prop :=
  ∀ s t : State,
    (t.cart.kind = s.cart.kind → t.cart.ramSize = s.cart.ramSize → t.cart.romSize = s.cart.romSize → t.cart.rom = s.cart.rom →
      t.bootRom = s.bootRom → t.params = s.params →
      ∃ u, restoreState (saveState s) t = .ok u ∧ u = s ∧ ∀ n, runUntil n u = runUntil n s) ∧
    (t.cart.kind ≠ s.cart.kind ∨ t.cart.ramSize ≠ s.cart.ramSize → restoreState (saveState s) t = .error .saveStateMismatch)

/-- LD r,r', LD r,n8 and LD r,(HL): the destination takes the source, and nothing else changes. States R401, R402, R403. -/
def Obligations.RegisterLoads : Prop :=
  ∀ (s : State) (r r' : R8) (n : Byte),
    (ReadFrom [opByte 1 (r8Code r) (r8Code r')] (.ldRR r r') ∧
     ∃ t, exec (.ldRR r r') s = .next t ∧ readR8 r t = readR8 r' s ∧ OnlyRegs [regOfR8 r] s.sp s t ∧ EndsAfter 1 1 s t) ∧
    (ReadFrom [opByte 0 (r8Code r) 6, n] (.ldRN r n) ∧
     ∃ t, exec (.ldRN r n) s = .next t ∧ readR8 r t = n ∧ OnlyRegs [regOfR8 r] s.sp s t ∧ EndsAfter 2 2 s t) ∧
    (ReadFrom [opByte 1 (r8Code r) 6] (.ldRInd r) ∧
     ∃ t, exec (.ldRInd r) s = .next t ∧ readR8 r t = busRead (readHl s) s ∧ OnlyRegs [regOfR8 r] s.sp s t ∧ EndsAfter 1 2 s t)

/-- The loads of A from (BC), (DE), (a16), (HL+), (HL-), (a8) and (C): A takes the byte, HL steps where it says, nothing else changes. States R406, R407, R410, R412, R413, R416, R418. -/
def Obligations.AccumulatorLoads : Prop :=
  ∀ (s : State) (a16 : Word) (a8 : Byte),
    (ReadFrom [0x0A] .ldABc ∧ ∃ t, exec .ldABc s = .next t ∧ readReg .a t = busRead (readBc s) s ∧ OnlyRegs [.a] s.sp s t ∧ EndsAfter 1 2 s t) ∧
    (ReadFrom [0x1A] .ldADe ∧ ∃ t, exec .ldADe s = .next t ∧ readReg .a t = busRead (readDe s) s ∧ OnlyRegs [.a] s.sp s t ∧ EndsAfter 1 2 s t) ∧
    (ReadFrom [0xFA, loByte a16, hiByte a16] (.ldAA16 a16) ∧
     ∃ t, exec (.ldAA16 a16) s = .next t ∧ readReg .a t = busRead a16 s ∧ OnlyRegs [.a] s.sp s t ∧ EndsAfter 3 4 s t) ∧
    (ReadFrom [0x2A] .ldAHli ∧ ∃ t, exec .ldAHli s = .next t ∧ readReg .a t = busRead (readHl s) s ∧
      (readHl t).toNat = ((readHl s).toNat + 1) % 65536 ∧ OnlyRegs [.a, .h, .l] s.sp s t ∧ EndsAfter 1 2 s t) ∧
    (ReadFrom [0x3A] .ldAHld ∧ ∃ t, exec .ldAHld s = .next t ∧ readReg .a t = busRead (readHl s) s ∧
      (readHl t).toNat = ((readHl s).toNat + 65535) % 65536 ∧ OnlyRegs [.a, .h, .l] s.sp s t ∧ EndsAfter 1 2 s t) ∧
    (ReadFrom [0xF0, a8] (.ldhAA8 a8) ∧
     ∃ t, exec (.ldhAA8 a8) s = .next t ∧ readReg .a t = busRead (BitVec.ofNat 16 (0xFF00 + a8.toNat)) s ∧ OnlyRegs [.a] s.sp s t ∧ EndsAfter 2 3 s t) ∧
    (ReadFrom [0xF2] .ldAC ∧
     ∃ t, exec .ldAC s = .next t ∧ readReg .a t = busRead (BitVec.ofNat 16 (0xFF00 + (readReg .c s).toNat)) s ∧ OnlyRegs [.a] s.sp s t ∧ EndsAfter 1 2 s t)

/-- The byte stores: one byte is written at the address the form computes, HL steps where it says, and nothing else changes. States R404, R405, R408, R409, R411, R414, R415, R417, R419. -/
def Obligations.ByteStores : Prop :=
  ∀ (s : State) (r : R8) (n : Byte) (a16 : Word) (a8 : Byte),
    (ReadFrom [opByte 1 6 (r8Code r)] (.ldIndR r) ∧
     ∃ t, exec (.ldIndR r) s = .next t ∧ OnlyStore [] (readHl s) (readR8 r s) s t ∧ EndsAfter 1 2 s t) ∧
    (ReadFrom [0x36, n] (.ldIndN n) ∧ ∃ t, exec (.ldIndN n) s = .next t ∧ OnlyStore [] (readHl s) n s t ∧ EndsAfter 2 3 s t) ∧
    (ReadFrom [0x02] .ldBcA ∧ ∃ t, exec .ldBcA s = .next t ∧ OnlyStore [] (readBc s) (readReg .a s) s t ∧ EndsAfter 1 2 s t) ∧
    (ReadFrom [0x12] .ldDeA ∧ ∃ t, exec .ldDeA s = .next t ∧ OnlyStore [] (readDe s) (readReg .a s) s t ∧ EndsAfter 1 2 s t) ∧
    (ReadFrom [0xEA, loByte a16, hiByte a16] (.ldA16A a16) ∧
     ∃ t, exec (.ldA16A a16) s = .next t ∧ OnlyStore [] a16 (readReg .a s) s t ∧ EndsAfter 3 4 s t) ∧
    (ReadFrom [0x22] .ldHliA ∧ ∃ t, exec .ldHliA s = .next t ∧ OnlyStore [.h, .l] (readHl s) (readReg .a s) s t ∧
      (readHl t).toNat = ((readHl s).toNat + 1) % 65536 ∧ EndsAfter 1 2 s t) ∧
    (ReadFrom [0x32] .ldHldA ∧ ∃ t, exec .ldHldA s = .next t ∧ OnlyStore [.h, .l] (readHl s) (readReg .a s) s t ∧
      (readHl t).toNat = ((readHl s).toNat + 65535) % 65536 ∧ EndsAfter 1 2 s t) ∧
    (ReadFrom [0xE0, a8] (.ldhA8A a8) ∧
     ∃ t, exec (.ldhA8A a8) s = .next t ∧ OnlyStore [] (BitVec.ofNat 16 (0xFF00 + a8.toNat)) (readReg .a s) s t ∧ EndsAfter 2 3 s t) ∧
    (ReadFrom [0xE2] .ldCA ∧
     ∃ t, exec .ldCA s = .next t ∧ OnlyStore [] (BitVec.ofNat 16 (0xFF00 + (readReg .c s).toNat)) (readReg .a s) s t ∧ EndsAfter 1 2 s t)

/-- LD rr,n16, LD SP,HL, LD HL,SP+e8 with its flags, and LD (a16),SP. States R420, R421, R422, R423. -/
def Obligations.WordLoadsAndStoreOfSp : Prop :=
  ∀ (s : State) (rp : Rp) (n16 a16 : Word) (e : Byte),
    (ReadFrom [opByte 0 (2 * rpCode rp) 1, loByte n16, hiByte n16] (.ldRpN16 rp n16) ∧
     ∃ t, exec (.ldRpN16 rp n16) s = .next t ∧ readRp rp t = n16 ∧
      OnlyRegs (match rp with | .bc => [.b, .c] | .de => [.d, .e] | .hl => [.h, .l] | .sp => []) (if rp = .sp then n16 else s.sp) s t ∧
      EndsAfter 3 3 s t) ∧
    (ReadFrom [0xF9] .ldSpHl ∧ ∃ t, exec .ldSpHl s = .next t ∧ OnlyRegs [] (readHl s) s t ∧ EndsAfter 1 2 s t) ∧
    (ReadFrom [0xF8, e] (.ldHlSpE e) ∧
     ∃ t, exec (.ldHlSpE e) s = .next t ∧ ((readHl t).toNat : Int) = ((s.sp.toNat : Int) + e.toInt) % 65536 ∧
      FlagsAre false false (decide (16 ≤ s.sp.toNat % 16 + e.toNat % 16)) (decide (256 ≤ s.sp.toNat % 256 + e.toNat)) t ∧
      OnlyRegs [.h, .l, .f] s.sp s t ∧ EndsAfter 2 3 s t) ∧
    (ReadFrom [0x08, loByte a16, hiByte a16] (.ldA16Sp a16) ∧
     ∃ t, exec (.ldA16Sp a16) s = .next t ∧ StoredTwo a16 (loByte s.sp) (a16 + 1) (hiByte s.sp) s t ∧ SameRegs [] s t ∧
      t.sp = s.sp ∧ SameControl s t ∧ EndsAfter 3 5 s t)

/-- PUSH rr: sp falls by 2, the high byte is written first at the higher address, nothing else changes. States R430. -/
def Obligations.PushStoresHighByteFirst : Prop :=
  ∀ (s : State) (rp : Rp2),
    ReadFrom [opByte 3 (2 * rp2Code rp) 5] (.push rp) ∧ (readReg .f s).toNat % 16 = 0 ∧
    ∃ t, exec (.push rp) s = .next t ∧
      Pushed (match rp with | .bc => readBc s | .de => readDe s | .hl => readHl s | .af => word (readReg .a s) (readReg .f s)) s t ∧
      EndsAfter 1 4 s t

/-- POP rr: the low byte is read at sp and the high byte at sp + 1, sp rises by 2; POP AF masks the low nibble of F. States R431. -/
def Obligations.PopLoadsLowByteFirst : Prop :=
  ∀ (s : State) (rp : Rp2),
    ReadFrom [opByte 3 (2 * rp2Code rp) 1] (.pop rp) ∧
    ∃ t, exec (.pop rp) s = .next t ∧
      (let lo := busRead s.sp s
       let hi := busRead (s.sp + 1) s
       match rp with
       | .bc => readReg .b t = hi ∧ readReg .c t = lo ∧ OnlyRegs [.b, .c] (s.sp + 2) s t
       | .de => readReg .d t = hi ∧ readReg .e t = lo ∧ OnlyRegs [.d, .e] (s.sp + 2) s t
       | .hl => readReg .h t = hi ∧ readReg .l t = lo ∧ OnlyRegs [.h, .l] (s.sp + 2) s t
       | .af => readReg .a t = hi ∧ (readReg .f t).toNat = lo.toNat / 16 * 16 ∧ OnlyRegs [.a, .f] (s.sp + 2) s t) ∧
      EndsAfter 1 3 s t

/-- ADD and ADC, register, (HL) and immediate: A and the four flags of the exact sum, nothing else changed. States R455, R456, R457, R458, R459, R460. -/
def Obligations.AddWithAndWithoutCarry : Prop :=
  ∀ (s : State) (r : R8) (n : Byte),
    (ReadFrom [opByte 2 0 (r8Code r)] (.addR r) ∧
     ∃ t, exec (.addR r) s = .next t ∧ AddsTo (readReg .a s) (readR8 r s) false (readReg .a t) t.regs.f ∧ OnlyRegs [.a, .f] s.sp s t ∧ EndsAfter 1 1 s t) ∧
    (ReadFrom [opByte 2 0 6] .addInd ∧
     ∃ t, exec .addInd s = .next t ∧ AddsTo (readReg .a s) (busRead (readHl s) s) false (readReg .a t) t.regs.f ∧ OnlyRegs [.a, .f] s.sp s t ∧ EndsAfter 1 2 s t) ∧
    (ReadFrom [opByte 3 0 6, n] (.addN n) ∧
     ∃ t, exec (.addN n) s = .next t ∧ AddsTo (readReg .a s) n false (readReg .a t) t.regs.f ∧ OnlyRegs [.a, .f] s.sp s t ∧ EndsAfter 2 2 s t) ∧
    (ReadFrom [opByte 2 1 (r8Code r)] (.adcR r) ∧
     ∃ t, exec (.adcR r) s = .next t ∧ AddsTo (readReg .a s) (readR8 r s) s.regs.f.c (readReg .a t) t.regs.f ∧ OnlyRegs [.a, .f] s.sp s t ∧ EndsAfter 1 1 s t) ∧
    (ReadFrom [opByte 2 1 6] .adcInd ∧
     ∃ t, exec .adcInd s = .next t ∧ AddsTo (readReg .a s) (busRead (readHl s) s) s.regs.f.c (readReg .a t) t.regs.f ∧ OnlyRegs [.a, .f] s.sp s t ∧ EndsAfter 1 2 s t) ∧
    (ReadFrom [opByte 3 1 6, n] (.adcN n) ∧
     ∃ t, exec (.adcN n) s = .next t ∧ AddsTo (readReg .a s) n s.regs.f.c (readReg .a t) t.regs.f ∧ OnlyRegs [.a, .f] s.sp s t ∧ EndsAfter 2 2 s t)

/-- SUB and SBC, register, (HL) and immediate: A and the four flags of the exact difference, nothing else changed. States R461, R462, R463, R464, R465, R466. -/
def Obligations.SubtractWithAndWithoutBorrow : Prop :=
  ∀ (s : State) (r : R8) (n : Byte),
    (ReadFrom [opByte 2 2 (r8Code r)] (.subR r) ∧
     ∃ t, exec (.subR r) s = .next t ∧ SubtractsTo (readReg .a s) (readR8 r s) false (readReg .a t) t.regs.f ∧ OnlyRegs [.a, .f] s.sp s t ∧ EndsAfter 1 1 s t) ∧
    (ReadFrom [opByte 2 2 6] .subInd ∧
     ∃ t, exec .subInd s = .next t ∧ SubtractsTo (readReg .a s) (busRead (readHl s) s) false (readReg .a t) t.regs.f ∧ OnlyRegs [.a, .f] s.sp s t ∧ EndsAfter 1 2 s t) ∧
    (ReadFrom [opByte 3 2 6, n] (.subN n) ∧
     ∃ t, exec (.subN n) s = .next t ∧ SubtractsTo (readReg .a s) n false (readReg .a t) t.regs.f ∧ OnlyRegs [.a, .f] s.sp s t ∧ EndsAfter 2 2 s t) ∧
    (ReadFrom [opByte 2 3 (r8Code r)] (.sbcR r) ∧
     ∃ t, exec (.sbcR r) s = .next t ∧ SubtractsTo (readReg .a s) (readR8 r s) s.regs.f.c (readReg .a t) t.regs.f ∧ OnlyRegs [.a, .f] s.sp s t ∧ EndsAfter 1 1 s t) ∧
    (ReadFrom [opByte 2 3 6] .sbcInd ∧
     ∃ t, exec .sbcInd s = .next t ∧ SubtractsTo (readReg .a s) (busRead (readHl s) s) s.regs.f.c (readReg .a t) t.regs.f ∧ OnlyRegs [.a, .f] s.sp s t ∧ EndsAfter 1 2 s t) ∧
    (ReadFrom [opByte 3 3 6, n] (.sbcN n) ∧
     ∃ t, exec (.sbcN n) s = .next t ∧ SubtractsTo (readReg .a s) n s.regs.f.c (readReg .a t) t.regs.f ∧ OnlyRegs [.a, .f] s.sp s t ∧ EndsAfter 2 2 s t)

/-- AND, XOR and OR, register, (HL) and immediate: A takes the bitwise result, H is set by AND alone, N and C are cleared. States R467, R468, R469, R470, R471, R472, R473, R474, R475. -/
def Obligations.LogicOperations : Prop :=
  ∀ (s : State) (r : R8) (n : Byte),
    (ReadFrom [opByte 2 4 (r8Code r)] (.andR r) ∧
     ∃ t, exec (.andR r) s = .next t ∧ readReg .a t = readReg .a s &&& readR8 r s ∧
      FlagsAre (decide (readReg .a t = 0)) false true false t ∧ OnlyRegs [.a, .f] s.sp s t ∧ EndsAfter 1 1 s t) ∧
    (ReadFrom [opByte 2 4 6] .andInd ∧
     ∃ t, exec .andInd s = .next t ∧ readReg .a t = readReg .a s &&& busRead (readHl s) s ∧
      FlagsAre (decide (readReg .a t = 0)) false true false t ∧ OnlyRegs [.a, .f] s.sp s t ∧ EndsAfter 1 2 s t) ∧
    (ReadFrom [opByte 3 4 6, n] (.andN n) ∧
     ∃ t, exec (.andN n) s = .next t ∧ readReg .a t = readReg .a s &&& n ∧
      FlagsAre (decide (readReg .a t = 0)) false true false t ∧ OnlyRegs [.a, .f] s.sp s t ∧ EndsAfter 2 2 s t) ∧
    (ReadFrom [opByte 2 5 (r8Code r)] (.xorR r) ∧
     ∃ t, exec (.xorR r) s = .next t ∧ readReg .a t = readReg .a s ^^^ readR8 r s ∧
      FlagsAre (decide (readReg .a t = 0)) false false false t ∧ OnlyRegs [.a, .f] s.sp s t ∧ EndsAfter 1 1 s t) ∧
    (ReadFrom [opByte 2 5 6] .xorInd ∧
     ∃ t, exec .xorInd s = .next t ∧ readReg .a t = readReg .a s ^^^ busRead (readHl s) s ∧
      FlagsAre (decide (readReg .a t = 0)) false false false t ∧ OnlyRegs [.a, .f] s.sp s t ∧ EndsAfter 1 2 s t) ∧
    (ReadFrom [opByte 3 5 6, n] (.xorN n) ∧
     ∃ t, exec (.xorN n) s = .next t ∧ readReg .a t = readReg .a s ^^^ n ∧
      FlagsAre (decide (readReg .a t = 0)) false false false t ∧ OnlyRegs [.a, .f] s.sp s t ∧ EndsAfter 2 2 s t) ∧
    (ReadFrom [opByte 2 6 (r8Code r)] (.orR r) ∧
     ∃ t, exec (.orR r) s = .next t ∧ readReg .a t = readReg .a s ||| readR8 r s ∧
      FlagsAre (decide (readReg .a t = 0)) false false false t ∧ OnlyRegs [.a, .f] s.sp s t ∧ EndsAfter 1 1 s t) ∧
    (ReadFrom [opByte 2 6 6] .orInd ∧
     ∃ t, exec .orInd s = .next t ∧ readReg .a t = readReg .a s ||| busRead (readHl s) s ∧
      FlagsAre (decide (readReg .a t = 0)) false false false t ∧ OnlyRegs [.a, .f] s.sp s t ∧ EndsAfter 1 2 s t) ∧
    (ReadFrom [opByte 3 6 6, n] (.orN n) ∧
     ∃ t, exec (.orN n) s = .next t ∧ readReg .a t = readReg .a s ||| n ∧
      FlagsAre (decide (readReg .a t = 0)) false false false t ∧ OnlyRegs [.a, .f] s.sp s t ∧ EndsAfter 2 2 s t)

/-- CP, register, (HL) and immediate: the flags of SUB, and A unchanged. States R476, R477, R478. -/
def Obligations.CompareWritesFlagsOnly : Prop :=
  ∀ (s : State) (r : R8) (n : Byte),
    (ReadFrom [opByte 2 7 (r8Code r)] (.cpR r) ∧
     ∃ t, exec (.cpR r) s = .next t ∧ (∃ v, SubtractsTo (readReg .a s) (readR8 r s) false v t.regs.f) ∧ OnlyRegs [.f] s.sp s t ∧ EndsAfter 1 1 s t) ∧
    (ReadFrom [opByte 2 7 6] .cpInd ∧
     ∃ t, exec .cpInd s = .next t ∧ (∃ v, SubtractsTo (readReg .a s) (busRead (readHl s) s) false v t.regs.f) ∧ OnlyRegs [.f] s.sp s t ∧ EndsAfter 1 2 s t) ∧
    (ReadFrom [opByte 3 7 6, n] (.cpN n) ∧
     ∃ t, exec (.cpN n) s = .next t ∧ (∃ v, SubtractsTo (readReg .a s) n false v t.regs.f) ∧ OnlyRegs [.f] s.sp s t ∧ EndsAfter 2 2 s t)

/-- INC and DEC of a register and of the byte at HL: the value mod 256, Z, N and H, and C unchanged. States R479, R480, R481, R482. -/
def Obligations.IncrementAndDecrementBytes : Prop :=
  ∀ (s : State) (r : R8),
    (ReadFrom [opByte 0 (r8Code r) 4] (.incR r) ∧
     ∃ t, exec (.incR r) s = .next t ∧
      (let m := readR8 r s
       (readR8 r t).toNat = (m.toNat + 1) % 256 ∧ FlagsAre (decide (readR8 r t = 0)) false (decide (m.toNat % 16 = 15)) s.regs.f.c t) ∧
      OnlyRegs [regOfR8 r, .f] s.sp s t ∧ EndsAfter 1 1 s t) ∧
    (ReadFrom [opByte 0 6 4] .incInd ∧
     ∃ (t : State) (v : Byte), exec .incInd s = .next t ∧
      (let m := busRead (readHl s) s
       v.toNat = (m.toNat + 1) % 256 ∧ FlagsAre (decide (v = 0)) false (decide (m.toNat % 16 = 15)) s.regs.f.c t) ∧
      OnlyStore [.f] (readHl s) v s t ∧ EndsAfter 1 3 s t) ∧
    (ReadFrom [opByte 0 (r8Code r) 5] (.decR r) ∧
     ∃ t, exec (.decR r) s = .next t ∧
      (let m := readR8 r s
       (readR8 r t).toNat = (m.toNat + 255) % 256 ∧ FlagsAre (decide (readR8 r t = 0)) true (decide (m.toNat % 16 = 0)) s.regs.f.c t) ∧
      OnlyRegs [regOfR8 r, .f] s.sp s t ∧ EndsAfter 1 1 s t) ∧
    (ReadFrom [opByte 0 6 5] .decInd ∧
     ∃ (t : State) (v : Byte), exec .decInd s = .next t ∧
      (let m := busRead (readHl s) s
       v.toNat = (m.toNat + 255) % 256 ∧ FlagsAre (decide (v = 0)) true (decide (m.toNat % 16 = 0)) s.regs.f.c t) ∧
      OnlyStore [.f] (readHl s) v s t ∧ EndsAfter 1 3 s t)

/-- DAA, CPL, SCF and CCF: A and exactly the flags each rule writes. States R483, R484, R485, R486. -/
def Obligations.AccumulatorAdjustments : Prop :=
  ∀ s : State,
    (ReadFrom [0x27] .daa ∧ ∃ t, exec .daa s = .next t ∧
      (let a := (readReg .a s).toNat
       let f := s.regs.f
       let fixL : Bool := f.h || (!f.n && decide (9 < a % 16))
       let fixH : Bool := f.c || (!f.n && decide (0x99 < a))
       let fix : Int := (if fixH then 0x60 else 0) + (if fixL then 0x06 else 0)
       ((readReg .a t).toNat : Int) = (if f.n then (a : Int) - fix else a + fix) % 256 ∧
       FlagsAre (decide (readReg .a t = 0)) f.n false fixH t) ∧
      OnlyRegs [.a, .f] s.sp s t ∧ EndsAfter 1 1 s t) ∧
    (ReadFrom [0x2F] .cpl ∧ ∃ t, exec .cpl s = .next t ∧ (readReg .a t).toNat = 255 - (readReg .a s).toNat ∧
      FlagsAre s.regs.f.z true true s.regs.f.c t ∧ OnlyRegs [.a, .f] s.sp s t ∧ EndsAfter 1 1 s t) ∧
    (ReadFrom [0x37] .scf ∧ ∃ t, exec .scf s = .next t ∧
      FlagsAre s.regs.f.z false false true t ∧ OnlyRegs [.f] s.sp s t ∧ EndsAfter 1 1 s t) ∧
    (ReadFrom [0x3F] .ccf ∧ ∃ t, exec .ccf s = .next t ∧
      FlagsAre s.regs.f.z false false (!s.regs.f.c) t ∧ OnlyRegs [.f] s.sp s t ∧ EndsAfter 1 1 s t)

/-- ADD or SUB of two packed decimal bytes followed by DAA is decimal addition or subtraction. Derived from R450, R451, R483. -/
def Obligations.DecimalAdditionAndSubtraction : Prop :=
  ∀ x y : Nat, x < 100 → y < 100 →
    let packed (k : Nat) : Byte := BitVec.ofNat 8 (k / 10 * 16 + k % 10)
    let sum := add8 (packed x) (packed y) false
    let diff := sub8 (packed x) (packed y) false
    (daa8 sum.1 sum.2).1 = packed ((x + y) % 100) ∧ (daa8 sum.1 sum.2).2.c = decide (100 ≤ x + y) ∧
    (daa8 diff.1 diff.2).1 = packed ((100 + x - y) % 100) ∧ (daa8 diff.1 diff.2).2.c = decide (x < y)

/-- ADD HL,rr, INC rr, DEC rr and ADD SP,e8: the 16-bit value mod 65536 and exactly the flags each rule writes. States R503, R504, R505, R506. -/
def Obligations.SixteenBitArithmetic : Prop :=
  ∀ (s : State) (rp : Rp) (e : Byte),
    (ReadFrom [opByte 0 (2 * rpCode rp + 1) 1] (.addHlRp rp) ∧
     ∃ t, exec (.addHlRp rp) s = .next t ∧ (readHl t).toNat = ((readHl s).toNat + (readRp rp s).toNat) % 65536 ∧
      FlagsAre s.regs.f.z false (decide (4096 ≤ (readHl s).toNat % 4096 + (readRp rp s).toNat % 4096))
        (decide (65536 ≤ (readHl s).toNat + (readRp rp s).toNat)) t ∧
      OnlyRegs [.h, .l, .f] s.sp s t ∧ EndsAfter 1 2 s t) ∧
    (ReadFrom [opByte 0 (2 * rpCode rp) 3] (.incRp rp) ∧
     ∃ t, exec (.incRp rp) s = .next t ∧ (readRp rp t).toNat = ((readRp rp s).toNat + 1) % 65536 ∧
      OnlyRegs (match rp with | .bc => [.b, .c] | .de => [.d, .e] | .hl => [.h, .l] | .sp => []) (if rp = .sp then s.sp + 1 else s.sp) s t ∧ EndsAfter 1 2 s t) ∧
    (ReadFrom [opByte 0 (2 * rpCode rp + 1) 3] (.decRp rp) ∧
     ∃ t, exec (.decRp rp) s = .next t ∧ (readRp rp t).toNat = ((readRp rp s).toNat + 65535) % 65536 ∧
      OnlyRegs (match rp with | .bc => [.b, .c] | .de => [.d, .e] | .hl => [.h, .l] | .sp => []) (if rp = .sp then s.sp - 1 else s.sp) s t ∧ EndsAfter 1 2 s t) ∧
    (ReadFrom [0xE8, e] (.addSpE e) ∧
     ∃ t, exec (.addSpE e) s = .next t ∧ (t.sp.toNat : Int) = ((s.sp.toNat : Int) + e.toInt) % 65536 ∧
      FlagsAre false false (decide (16 ≤ s.sp.toNat % 16 + e.toNat % 16)) (decide (256 ≤ s.sp.toNat % 256 + e.toNat)) t ∧
      OnlyRegs [.f] t.sp s t ∧ EndsAfter 2 4 s t)

/-- RLCA, RRCA, RLA and RRA: A rotated bit by bit, C the bit that left, Z = N = H = 0. States R522, R523, R524, R525. -/
def Obligations.AccumulatorRotates : Prop :=
  ∀ s : State,
    (ReadFrom [0x07] .rlca ∧
     ∃ t, exec .rlca s = .next t ∧ BitsFrom (fun i => (readReg .a s).getLsbD ((i + 7) % 8)) (readReg .a t) ∧
      FlagsAre false false false ((readReg .a s).getLsbD 7) t ∧ OnlyRegs [.a, .f] s.sp s t ∧ EndsAfter 1 1 s t) ∧
    (ReadFrom [0x0F] .rrca ∧
     ∃ t, exec .rrca s = .next t ∧ BitsFrom (fun i => (readReg .a s).getLsbD ((i + 1) % 8)) (readReg .a t) ∧
      FlagsAre false false false ((readReg .a s).getLsbD 0) t ∧ OnlyRegs [.a, .f] s.sp s t ∧ EndsAfter 1 1 s t) ∧
    (ReadFrom [0x17] .rla ∧
     ∃ t, exec .rla s = .next t ∧ BitsFrom (fun i => if i = 0 then s.regs.f.c else (readReg .a s).getLsbD (i - 1)) (readReg .a t) ∧
      FlagsAre false false false ((readReg .a s).getLsbD 7) t ∧ OnlyRegs [.a, .f] s.sp s t ∧ EndsAfter 1 1 s t) ∧
    (ReadFrom [0x1F] .rra ∧
     ∃ t, exec .rra s = .next t ∧ BitsFrom (fun i => if i = 7 then s.regs.f.c else (readReg .a s).getLsbD (i + 1)) (readReg .a t) ∧
      FlagsAre false false false ((readReg .a s).getLsbD 0) t ∧ OnlyRegs [.a, .f] s.sp s t ∧ EndsAfter 1 1 s t)

/-- RLC, RRC, RL and RR of a register and of the byte at HL, bit by bit, with their flags. States R526, R527, R528, R529, R530, R531, R532, R533. -/
def Obligations.PrefixedRotates : Prop :=
  ∀ (s : State) (r : R8),
    (ReadFrom [0xCB, opByte 0 0 (r8Code r)] (.rlcR r) ∧
     ∃ t, exec (.rlcR r) s = .next t ∧ BitsFrom (fun i => (readR8 r s).getLsbD ((i + 7) % 8)) (readR8 r t) ∧
      FlagsAre (decide (readR8 r t = 0)) false false ((readR8 r s).getLsbD 7) t ∧ OnlyRegs [regOfR8 r, .f] s.sp s t ∧ EndsAfter 2 2 s t) ∧
    (ReadFrom [0xCB, opByte 0 0 6] .rlcInd ∧
     ∃ (t : State) (w : Byte), exec .rlcInd s = .next t ∧ BitsFrom (fun i => (busRead (readHl s) s).getLsbD ((i + 7) % 8)) w ∧
      FlagsAre (decide (w = 0)) false false ((busRead (readHl s) s).getLsbD 7) t ∧ OnlyStore [.f] (readHl s) w s t ∧ EndsAfter 2 4 s t) ∧
    (ReadFrom [0xCB, opByte 0 1 (r8Code r)] (.rrcR r) ∧
     ∃ t, exec (.rrcR r) s = .next t ∧ BitsFrom (fun i => (readR8 r s).getLsbD ((i + 1) % 8)) (readR8 r t) ∧
      FlagsAre (decide (readR8 r t = 0)) false false ((readR8 r s).getLsbD 0) t ∧ OnlyRegs [regOfR8 r, .f] s.sp s t ∧ EndsAfter 2 2 s t) ∧
    (ReadFrom [0xCB, opByte 0 1 6] .rrcInd ∧
     ∃ (t : State) (w : Byte), exec .rrcInd s = .next t ∧ BitsFrom (fun i => (busRead (readHl s) s).getLsbD ((i + 1) % 8)) w ∧
      FlagsAre (decide (w = 0)) false false ((busRead (readHl s) s).getLsbD 0) t ∧ OnlyStore [.f] (readHl s) w s t ∧ EndsAfter 2 4 s t) ∧
    (ReadFrom [0xCB, opByte 0 2 (r8Code r)] (.rlR r) ∧
     ∃ t, exec (.rlR r) s = .next t ∧ BitsFrom (fun i => if i = 0 then s.regs.f.c else (readR8 r s).getLsbD (i - 1)) (readR8 r t) ∧
      FlagsAre (decide (readR8 r t = 0)) false false ((readR8 r s).getLsbD 7) t ∧ OnlyRegs [regOfR8 r, .f] s.sp s t ∧ EndsAfter 2 2 s t) ∧
    (ReadFrom [0xCB, opByte 0 2 6] .rlInd ∧
     ∃ (t : State) (w : Byte), exec .rlInd s = .next t ∧ BitsFrom (fun i => if i = 0 then s.regs.f.c else (busRead (readHl s) s).getLsbD (i - 1)) w ∧
      FlagsAre (decide (w = 0)) false false ((busRead (readHl s) s).getLsbD 7) t ∧ OnlyStore [.f] (readHl s) w s t ∧ EndsAfter 2 4 s t) ∧
    (ReadFrom [0xCB, opByte 0 3 (r8Code r)] (.rrR r) ∧
     ∃ t, exec (.rrR r) s = .next t ∧ BitsFrom (fun i => if i = 7 then s.regs.f.c else (readR8 r s).getLsbD (i + 1)) (readR8 r t) ∧
      FlagsAre (decide (readR8 r t = 0)) false false ((readR8 r s).getLsbD 0) t ∧ OnlyRegs [regOfR8 r, .f] s.sp s t ∧ EndsAfter 2 2 s t) ∧
    (ReadFrom [0xCB, opByte 0 3 6] .rrInd ∧
     ∃ (t : State) (w : Byte), exec .rrInd s = .next t ∧ BitsFrom (fun i => if i = 7 then s.regs.f.c else (busRead (readHl s) s).getLsbD (i + 1)) w ∧
      FlagsAre (decide (w = 0)) false false ((busRead (readHl s) s).getLsbD 0) t ∧ OnlyStore [.f] (readHl s) w s t ∧ EndsAfter 2 4 s t)

/-- SLA, SRA, SWAP and SRL of a register and of the byte at HL, bit by bit, with their flags. States R534, R535, R536, R537, R538, R539, R540, R541. -/
def Obligations.PrefixedShiftsAndSwap : Prop :=
  ∀ (s : State) (r : R8),
    (ReadFrom [0xCB, opByte 0 4 (r8Code r)] (.slaR r) ∧
     ∃ t, exec (.slaR r) s = .next t ∧ BitsFrom (fun i => decide (i ≠ 0) && (readR8 r s).getLsbD (i - 1)) (readR8 r t) ∧
      FlagsAre (decide (readR8 r t = 0)) false false ((readR8 r s).getLsbD 7) t ∧ OnlyRegs [regOfR8 r, .f] s.sp s t ∧ EndsAfter 2 2 s t) ∧
    (ReadFrom [0xCB, opByte 0 4 6] .slaInd ∧
     ∃ (t : State) (w : Byte), exec .slaInd s = .next t ∧ BitsFrom (fun i => decide (i ≠ 0) && (busRead (readHl s) s).getLsbD (i - 1)) w ∧
      FlagsAre (decide (w = 0)) false false ((busRead (readHl s) s).getLsbD 7) t ∧ OnlyStore [.f] (readHl s) w s t ∧ EndsAfter 2 4 s t) ∧
    (ReadFrom [0xCB, opByte 0 5 (r8Code r)] (.sraR r) ∧
     ∃ t, exec (.sraR r) s = .next t ∧ BitsFrom (fun i => if i = 7 then (readR8 r s).getLsbD 7 else (readR8 r s).getLsbD (i + 1)) (readR8 r t) ∧
      FlagsAre (decide (readR8 r t = 0)) false false ((readR8 r s).getLsbD 0) t ∧ OnlyRegs [regOfR8 r, .f] s.sp s t ∧ EndsAfter 2 2 s t) ∧
    (ReadFrom [0xCB, opByte 0 5 6] .sraInd ∧
     ∃ (t : State) (w : Byte), exec .sraInd s = .next t ∧ BitsFrom (fun i => if i = 7 then (busRead (readHl s) s).getLsbD 7 else (busRead (readHl s) s).getLsbD (i + 1)) w ∧
      FlagsAre (decide (w = 0)) false false ((busRead (readHl s) s).getLsbD 0) t ∧ OnlyStore [.f] (readHl s) w s t ∧ EndsAfter 2 4 s t) ∧
    (ReadFrom [0xCB, opByte 0 6 (r8Code r)] (.swapR r) ∧
     ∃ t, exec (.swapR r) s = .next t ∧ BitsFrom (fun i => (readR8 r s).getLsbD ((i + 4) % 8)) (readR8 r t) ∧
      FlagsAre (decide (readR8 r t = 0)) false false (false) t ∧ OnlyRegs [regOfR8 r, .f] s.sp s t ∧ EndsAfter 2 2 s t) ∧
    (ReadFrom [0xCB, opByte 0 6 6] .swapInd ∧
     ∃ (t : State) (w : Byte), exec .swapInd s = .next t ∧ BitsFrom (fun i => (busRead (readHl s) s).getLsbD ((i + 4) % 8)) w ∧
      FlagsAre (decide (w = 0)) false false (false) t ∧ OnlyStore [.f] (readHl s) w s t ∧ EndsAfter 2 4 s t) ∧
    (ReadFrom [0xCB, opByte 0 7 (r8Code r)] (.srlR r) ∧
     ∃ t, exec (.srlR r) s = .next t ∧ BitsFrom (fun i => decide (i ≠ 7) && (readR8 r s).getLsbD (i + 1)) (readR8 r t) ∧
      FlagsAre (decide (readR8 r t = 0)) false false ((readR8 r s).getLsbD 0) t ∧ OnlyRegs [regOfR8 r, .f] s.sp s t ∧ EndsAfter 2 2 s t) ∧
    (ReadFrom [0xCB, opByte 0 7 6] .srlInd ∧
     ∃ (t : State) (w : Byte), exec .srlInd s = .next t ∧ BitsFrom (fun i => decide (i ≠ 7) && (busRead (readHl s) s).getLsbD (i + 1)) w ∧
      FlagsAre (decide (w = 0)) false false ((busRead (readHl s) s).getLsbD 0) t ∧ OnlyStore [.f] (readHl s) w s t ∧ EndsAfter 2 4 s t)

/-- BIT, RES and SET of a register and of the byte at HL: the tested bit in Z, or that one bit written. States R542, R543, R544, R545, R546, R547. -/
def Obligations.SingleBitOperations : Prop :=
  ∀ (s : State) (b : BitVec 3) (r : R8),
    (ReadFrom [0xCB, opByte 1 b.toNat (r8Code r)] (.bitR b r) ∧
     ∃ t, exec (.bitR b r) s = .next t ∧ FlagsAre (!(readR8 r s).getLsbD b.toNat) false true s.regs.f.c t ∧
      OnlyRegs [.f] s.sp s t ∧ EndsAfter 2 2 s t) ∧
    (ReadFrom [0xCB, opByte 1 b.toNat 6] (.bitInd b) ∧
     ∃ t, exec (.bitInd b) s = .next t ∧ FlagsAre (!(busRead (readHl s) s).getLsbD b.toNat) false true s.regs.f.c t ∧
      OnlyRegs [.f] s.sp s t ∧ EndsAfter 2 3 s t) ∧
    (ReadFrom [0xCB, opByte 2 b.toNat (r8Code r)] (.resR b r) ∧
     ∃ t, exec (.resR b r) s = .next t ∧ BitsFrom (fun i => if i = b.toNat then false else (readR8 r s).getLsbD i) (readR8 r t) ∧
      OnlyRegs [regOfR8 r] s.sp s t ∧ EndsAfter 2 2 s t) ∧
    (ReadFrom [0xCB, opByte 2 b.toNat 6] (.resInd b) ∧
     ∃ (t : State) (w : Byte), exec (.resInd b) s = .next t ∧ BitsFrom (fun i => if i = b.toNat then false else (busRead (readHl s) s).getLsbD i) w ∧
      OnlyStore [] (readHl s) w s t ∧ EndsAfter 2 4 s t) ∧
    (ReadFrom [0xCB, opByte 3 b.toNat (r8Code r)] (.setR b r) ∧
     ∃ t, exec (.setR b r) s = .next t ∧ BitsFrom (fun i => if i = b.toNat then true else (readR8 r s).getLsbD i) (readR8 r t) ∧
      OnlyRegs [regOfR8 r] s.sp s t ∧ EndsAfter 2 2 s t) ∧
    (ReadFrom [0xCB, opByte 3 b.toNat 6] (.setInd b) ∧
     ∃ (t : State) (w : Byte), exec (.setInd b) s = .next t ∧ BitsFrom (fun i => if i = b.toNat then true else (busRead (readHl s) s).getLsbD i) w ∧
      OnlyStore [] (readHl s) w s t ∧ EndsAfter 2 4 s t)

/-- PREFIX 0xCB has the meaning of the prefixed instruction its second byte selects, for all 256 of them. States R607. -/
def Obligations.PrefixRunsPrefixedInstruction : Prop :=
  ∀ (b1 : Byte) (s : State), ReadFrom [0xCB, b1] (decodeCb b1) ∧ exec (.prefixCB b1) s = exec (decodeCb b1) s ∧
    ∃ t, exec (.prefixCB b1) s = .next t

/-- JP, JP cc, JP HL, JR and JR cc: the target or the next instruction, with the cost that applies, and nothing else changed. States R561, R562, R563, R564, R565. -/
def Obligations.Jumps : Prop :=
  ∀ (s : State) (cc : Cond) (a16 : Word) (e : Byte),
    (ReadFrom [0xC3, loByte a16, hiByte a16] (.jp a16) ∧
     ∃ t, exec (.jp a16) s = .next t ∧ OnlyRegs [] s.sp s t ∧ EndsAt a16 4 s t) ∧
    (ReadFrom [opByte 3 (condCode cc) 2, loByte a16, hiByte a16] (.jpCc cc a16) ∧
     ∃ t, exec (.jpCc cc a16) s = .next t ∧ OnlyRegs [] s.sp s t ∧
      (let holds : Prop := match cc with | .nz => s.regs.f.z = false | .z => s.regs.f.z = true | .nc => s.regs.f.c = false | .c => s.regs.f.c = true
       (holds → EndsAt a16 4 s t) ∧
       (¬ holds → EndsAfter 3 3 s t))) ∧
    (ReadFrom [0xE9] .jpHl ∧ ∃ t, exec .jpHl s = .next t ∧ OnlyRegs [] s.sp s t ∧ EndsAt (readHl s) 1 s t) ∧
    (ReadFrom [0x18, e] (.jr e) ∧ ∃ t, exec (.jr e) s = .next t ∧ OnlyRegs [] s.sp s t ∧
      (t.pc.toNat : Int) = ((s.pc.toNat : Int) + 2 + e.toInt) % 65536 ∧ t.nextCycle = .cycle (s.cycles + 3)) ∧
    (ReadFrom [opByte 0 (4 + condCode cc) 0, e] (.jrCc cc e) ∧
     ∃ t, exec (.jrCc cc e) s = .next t ∧ OnlyRegs [] s.sp s t ∧
      (let holds : Prop := match cc with | .nz => s.regs.f.z = false | .z => s.regs.f.z = true | .nc => s.regs.f.c = false | .c => s.regs.f.c = true
       (holds → (t.pc.toNat : Int) = ((s.pc.toNat : Int) + 2 + e.toInt) % 65536 ∧ t.nextCycle = .cycle (s.cycles + 3)) ∧
       (¬ holds → EndsAfter 2 2 s t)))

/-- CALL, CALL cc, RST push the return address and RET, RET cc, RETI pop it; RETI sets IME at once. States R566, R567, R568, R569, R570, R575. -/
def Obligations.CallsReturnsAndRestarts : Prop :=
  ∀ (s : State) (cc : Cond) (a16 : Word) (y : BitVec 3),
    (ReadFrom [0xCD, loByte a16, hiByte a16] (.call a16) ∧
     ∃ t, exec (.call a16) s = .next t ∧ Pushed (s.pc + 3) s t ∧ EndsAt a16 6 s t) ∧
    (ReadFrom [opByte 3 (condCode cc) 4, loByte a16, hiByte a16] (.callCc cc a16) ∧
     ∃ t, exec (.callCc cc a16) s = .next t ∧
      (let holds : Prop := match cc with | .nz => s.regs.f.z = false | .z => s.regs.f.z = true | .nc => s.regs.f.c = false | .c => s.regs.f.c = true
       (holds → Pushed (s.pc + 3) s t ∧ EndsAt a16 6 s t) ∧
       (¬ holds → OnlyRegs [] s.sp s t ∧ EndsAfter 3 3 s t))) ∧
    (ReadFrom [0xC9] .ret ∧ ∃ t, exec .ret s = .next t ∧ OnlyRegs [] (s.sp + 2) s t ∧ EndsAt (word (busRead (s.sp + 1) s) (busRead s.sp s)) 4 s t) ∧
    (ReadFrom [opByte 3 (condCode cc) 0] (.retCc cc) ∧
     ∃ t, exec (.retCc cc) s = .next t ∧
      (let holds : Prop := match cc with | .nz => s.regs.f.z = false | .z => s.regs.f.z = true | .nc => s.regs.f.c = false | .c => s.regs.f.c = true
       (holds → OnlyRegs [] (s.sp + 2) s t ∧ EndsAt (word (busRead (s.sp + 1) s) (busRead s.sp s)) 5 s t) ∧
       (¬ holds → OnlyRegs [] s.sp s t ∧ EndsAfter 1 2 s t))) ∧
    (ReadFrom [0xD9] .reti ∧ ∃ t, exec .reti s = .next t ∧ SameRegs [] s t ∧ t.sp = s.sp + 2 ∧ SameDevices s t ∧
      t.ime = true ∧ t.imePending = false ∧ t.haltBugPending = s.haltBugPending ∧ t.fault = s.fault ∧
      EndsAt (word (busRead (s.sp + 1) s) (busRead s.sp s)) 4 s t) ∧
    (ReadFrom [opByte 3 y.toNat 7] (.rst y) ∧
     ∃ t, exec (.rst y) s = .next t ∧ Pushed (s.pc + 1) s t ∧ t.pc.toNat = 8 * y.toNat ∧ t.nextCycle = .cycle (s.cycles + 4))

/-- NOP changes only the pc and the next boundary, DI clears IME and the pending enable, EI sets IME at once or leaves it pending. States R601, R604, R605. -/
def Obligations.NopDiEi : Prop :=
  ∀ s : State,
    (ReadFrom [0x00] .nop ∧ ∃ t, exec .nop s = .next t ∧ OnlyRegs [] s.sp s t ∧ EndsAfter 1 1 s t) ∧
    (ReadFrom [0xF3] .di ∧ ∃ t, exec .di s = .next t ∧ SameRegs [] s t ∧ t.sp = s.sp ∧ SameDevices s t ∧
      t.ime = false ∧ t.imePending = false ∧ t.haltBugPending = s.haltBugPending ∧ t.fault = s.fault ∧ EndsAfter 1 1 s t) ∧
    (ReadFrom [0xFB] .ei ∧ ∃ t, exec .ei s = .next t ∧ SameRegs [] s t ∧ t.sp = s.sp ∧ SameDevices s t ∧
      (s.params.eiDelay = false → t.ime = true ∧ t.imePending = s.imePending) ∧
      (s.params.eiDelay = true → t.ime = s.ime ∧ t.imePending = true) ∧
      t.haltBugPending = s.haltBugPending ∧ t.fault = s.fault ∧ EndsAfter 1 1 s t)

/-- HALT suspends fetching, except under HALT_BUG with IME = 0 and an enabled interrupt pending, where the next fetch is bugged. States R602. -/
def Obligations.HaltSuspendsFetching : Prop :=
  ∀ s : State, ReadFrom [0x76] .halt ∧
    ∃ t, exec .halt s = .next t ∧ SameRegs [] s t ∧ t.sp = s.sp ∧ SameDevices s t ∧ t.ime = s.ime ∧
      t.imePending = s.imePending ∧ t.fault = s.fault ∧ t.pc.toNat = (s.pc.toNat + 1) % 65536 ∧
      (let bug : Prop := s.params.haltBug = true ∧ s.ime = false ∧ (s.ie.toNat &&& s.iflag.toNat &&& 0x1F) ≠ 0
       (bug → t.haltBugPending = true ∧ t.nextCycle = .cycle (s.cycles + 1)) ∧
       (¬ bug → t.haltBugPending = s.haltBugPending ∧ t.nextCycle = .halted))

/-- STOP and the eleven illegal codes raise their fault, change nothing else, and no agent steps again. Derived from R603, R608, R610, R701, R702. At a HALT-bug fetch, that the recorded address is pc - 1 (fetchBase) and that pc stays at the opcode is the model's reading: log entry 7. -/
def Obligations.StopAndIllegalRaiseFaults : Prop :=
  ∀ (s : State) (n op : Byte),
    (ReadFrom [0x10, n] (.stop n) ∧ exec (.stop n) s = .next { s with fault := some (.stopUnmodelled s.pc) }) ∧
    (op ∈ illegalOpcodes → ReadFrom [op] (.illegal op)) ∧
    exec (.illegal op) s = .next { s with fault := some (.illegalOpcode s.pc op) } ∧
    (let d := wake (devicesStep s)
     s.fault = none → atBoundary d = true → serviceDue d = false →
     (fetchInstr d = .stop n → step s = .next (endCycle { d with fault := some (.stopUnmodelled (fetchBase d)) })) ∧
     (fetchInstr d = .illegal op → step s = .next (endCycle { d with fault := some (.illegalOpcode (fetchBase d) op) }))) ∧
    (∀ f, s.fault = some f → step s = .fault f ∧ ∀ t, s.cycles ≤ t → runUntil t s = .faulted f s)
end

