-- ==== Sys2Proof/Laws/Mem.lean ====
section
/-! SUPPORT. The laws of byte stores: a read after a write, a read elsewhere, and the canonical form and bounds that
every operation keeps. -/

namespace Sys2Proof.Machine

/-! ## Reads -/

@[simp] theorem memRead_nil (i : Nat) : memRead [] i = unlistedByte := rfl

theorem memRead_memErase (m : Mem) (i j : Nat) :
    memRead (memErase m i) j = if i = j then unlistedByte else memRead m j := by
  induction m with
  | nil => simp [memErase]
  | cons cell rest ih =>
    obtain ⟨k, v⟩ := cell
    simp only [memErase]
    by_cases hk : k = i
    · subst hk
      by_cases hj : k = j
      · simp_all
      · simp_all [memRead]
    · by_cases hj : k = j
      · subst hj
        simp_all [memRead, Ne.symm]
      · simp_all [memRead]

theorem memRead_memInsert (m : Mem) (i j : Nat) (v : Byte) (hm : ∀ w, (i, w) ∉ m) :
    memRead (memInsert m i v) j = if i = j then v else memRead m j := by
  induction m with
  | nil => simp [memInsert, memRead]
  | cons cell rest ih =>
    obtain ⟨k, w⟩ := cell
    simp only [List.mem_cons, not_or, Prod.mk.injEq, not_and] at hm
    have hk : k ≠ i := fun e => (hm w).1 e.symm rfl
    simp only [memInsert]
    split
    · simp [memRead]
    · simp only [memRead, ih fun w => (hm w).2]
      by_cases hj : k = j
      · subst hj; simp [Ne.symm hk]
      · simp [hj]

theorem not_mem_memErase (m : Mem) (i : Nat) (w : Byte) : (i, w) ∉ memErase m i := by
  induction m with
  | nil => simp [memErase]
  | cons cell rest ih =>
    obtain ⟨k, v⟩ := cell
    simp only [memErase]
    split
    · exact ih
    · rename_i hk
      simp only [List.mem_cons, Prod.mk.injEq, not_or, not_and]
      exact ⟨fun e => absurd e.symm hk, ih⟩

/-- A store reads the byte written where it was written, and elsewhere what it read before. -/
theorem memRead_memWrite (m : Mem) (i j : Nat) (v : Byte) :
    memRead (memWrite m i v) j = if i = j then v else memRead m j := by
  unfold memWrite
  split
  · rename_i hv
    rw [memRead_memErase, hv]
  · rw [memRead_memInsert _ _ _ _ (not_mem_memErase m i), memRead_memErase]
    split <;> rfl

@[simp] theorem memRead_memWrite_same (m : Mem) (i : Nat) (v : Byte) : memRead (memWrite m i v) i = v := by
  simp [memRead_memWrite]

theorem memRead_memWrite_other (m : Mem) {i j : Nat} (v : Byte) (h : j ≠ i) :
    memRead (memWrite m i v) j = memRead m j := by
  simp [memRead_memWrite, Ne.symm h]

/-! ## The canonical form -/

theorem memSortedFrom_mono {lo lo' : Nat} (h : lo' ≤ lo) {m : Mem} (hm : memSortedFrom lo m = true) :
    memSortedFrom lo' m = true := by
  cases m with
  | nil => rfl
  | cons cell rest =>
    obtain ⟨k, v⟩ := cell
    simp only [memSortedFrom, Bool.and_eq_true, decide_eq_true_eq] at hm ⊢
    exact ⟨⟨by omega, hm.1.2⟩, hm.2⟩

theorem memSortedFrom_memErase {lo : Nat} {m : Mem} (i : Nat) (hm : memSortedFrom lo m = true) :
    memSortedFrom lo (memErase m i) = true := by
  induction m generalizing lo with
  | nil => rfl
  | cons cell rest ih =>
    obtain ⟨k, v⟩ := cell
    simp only [memSortedFrom, Bool.and_eq_true, decide_eq_true_eq] at hm
    simp only [memErase]
    split
    · exact memSortedFrom_mono (by omega) (ih hm.2)
    · simp only [memSortedFrom, Bool.and_eq_true, decide_eq_true_eq]
      exact ⟨hm.1, ih hm.2⟩

theorem memSortedFrom_memInsert {lo : Nat} {m : Mem} {i : Nat} {v : Byte} (hi : lo ≤ i) (hv : v ≠ unlistedByte)
    (hm : memSortedFrom lo m = true) (hfresh : ∀ w, (i, w) ∉ m) : memSortedFrom lo (memInsert m i v) = true := by
  induction m generalizing lo with
  | nil => simp [memInsert, memSortedFrom, hi, hv]
  | cons cell rest ih =>
    obtain ⟨k, w⟩ := cell
    simp only [memSortedFrom, Bool.and_eq_true, decide_eq_true_eq, bne_iff_ne] at hm
    simp only [List.mem_cons, not_or, Prod.mk.injEq, not_and] at hfresh
    have hk : i ≠ k := fun e => (hfresh w).1 e rfl
    simp only [memInsert]
    split
    · rename_i hlt
      simp only [memSortedFrom, Bool.and_eq_true, decide_eq_true_eq, bne_iff_ne]
      exact ⟨⟨hi, hv⟩, ⟨by omega, hm.1.2⟩, hm.2⟩
    · rename_i hlt
      simp only [memSortedFrom, Bool.and_eq_true, decide_eq_true_eq, bne_iff_ne]
      exact ⟨⟨hm.1.1, hm.1.2⟩, ih (by omega) hm.2 fun w => (hfresh w).2⟩

/-- Every write keeps the canonical form. -/
theorem Mem.wf_memWrite {m : Mem} (i : Nat) (v : Byte) (hm : m.wf = true) : Mem.wf (memWrite m i v) = true := by
  unfold memWrite Mem.wf at *
  split
  · exact memSortedFrom_memErase i hm
  · rename_i hv
    exact memSortedFrom_memInsert (Nat.zero_le i) hv (memSortedFrom_memErase i hm) (not_mem_memErase m i)

theorem Mem.wf_memErase {m : Mem} (i : Nat) (hm : m.wf = true) : Mem.wf (memErase m i) = true :=
  memSortedFrom_memErase i hm

@[simp] theorem Mem.wf_nil : Mem.wf [] = true := rfl

theorem memRead_below {lo : Nat} {m : Mem} (hm : memSortedFrom lo m = true) {i : Nat} (h : i < lo) :
    memRead m i = unlistedByte := by
  induction m generalizing lo with
  | nil => rfl
  | cons cell rest ih =>
    obtain ⟨k, v⟩ := cell
    simp only [memSortedFrom, Bool.and_eq_true, decide_eq_true_eq] at hm
    have hk : k ≠ i := by omega
    simp only [memRead, hk, if_false]
    exact ih hm.2 (by omega)

theorem memSortedFrom_ext {lo : Nat} {m m' : Mem} (hm : memSortedFrom lo m = true) (hm' : memSortedFrom lo m' = true)
    (h : ∀ i, memRead m i = memRead m' i) : m = m' := by
  induction m generalizing lo m' with
  | nil =>
    cases m' with
    | nil => rfl
    | cons cell rest =>
      obtain ⟨k, v⟩ := cell
      simp only [memSortedFrom, Bool.and_eq_true, bne_iff_ne] at hm'
      have := h k
      simp only [memRead, if_true] at this
      exact absurd this.symm hm'.1.2
  | cons cell rest ih =>
    obtain ⟨k, v⟩ := cell
    simp only [memSortedFrom, Bool.and_eq_true, decide_eq_true_eq, bne_iff_ne] at hm
    cases m' with
    | nil =>
      have := h k
      simp only [memRead, if_true] at this
      exact absurd this hm.1.2
    | cons cell' rest' =>
      obtain ⟨k', v'⟩ := cell'
      simp only [memSortedFrom, Bool.and_eq_true, decide_eq_true_eq, bne_iff_ne] at hm'
      have hk : k = k' := by
        rcases Nat.lt_trichotomy k k' with hlt | heq | hgt
        · have h1 := h k
          simp only [memRead, if_true, Nat.ne_of_gt hlt, if_false] at h1
          exact absurd (h1.trans (memRead_below hm'.2 (by omega))) hm.1.2
        · exact heq
        · have h1 := h k'
          simp only [memRead, if_true, Nat.ne_of_gt hgt, if_false] at h1
          exact absurd (h1.symm.trans (memRead_below hm.2 (by omega))) hm'.1.2
      subst hk
      have hv := h k
      simp only [memRead, if_true] at hv
      subst hv
      have hr : rest = rest' := by
        apply ih hm.2 hm'.2
        intro i
        have hi := h i
        simp only [memRead] at hi
        by_cases hki : k = i
        · subst hki
          rw [memRead_below hm.2 (by omega), memRead_below hm'.2 (by omega)]
        · simpa [hki] using hi
      rw [hr]

/-- Stores in canonical form with equal contents are equal data. -/
theorem Mem.ext_of_wf {m m' : Mem} (hm : m.wf = true) (hm' : m'.wf = true) (h : ∀ i, memRead m i = memRead m' i) :
    m = m' := memSortedFrom_ext hm hm' h

/-! ## Bounds -/

@[simp] theorem memWithin_nil (size : Nat) : memWithin size [] = true := rfl

theorem memWithin_memErase {size : Nat} {m : Mem} (i : Nat) (hm : memWithin size m = true) :
    memWithin size (memErase m i) = true := by
  induction m with
  | nil => rfl
  | cons cell rest ih =>
    obtain ⟨k, v⟩ := cell
    simp only [memWithin, List.all_cons, Bool.and_eq_true] at hm
    simp only [memErase]
    split
    · exact ih hm.2
    · simp only [memWithin, List.all_cons, Bool.and_eq_true]
      exact ⟨hm.1, ih hm.2⟩

theorem memWithin_memInsert {size : Nat} {m : Mem} {i : Nat} (v : Byte) (hi : i < size) (hm : memWithin size m = true) :
    memWithin size (memInsert m i v) = true := by
  induction m with
  | nil => simp [memInsert, memWithin, hi]
  | cons cell rest ih =>
    obtain ⟨k, w⟩ := cell
    simp only [memWithin, List.all_cons, Bool.and_eq_true] at hm
    simp only [memInsert]
    split
    · simp only [memWithin, List.all_cons, Bool.and_eq_true, decide_eq_true_eq] at hm ⊢
      exact ⟨hi, hm⟩
    · simp only [memWithin, List.all_cons, Bool.and_eq_true]
      exact ⟨hm.1, ih hm.2⟩

/-- A write inside a store keeps every listed index inside it. -/
theorem memWithin_memWrite {size : Nat} {m : Mem} {i : Nat} (v : Byte) (hi : i < size) (hm : memWithin size m = true) :
    memWithin size (memWrite m i v) = true := by
  unfold memWrite
  split
  · exact memWithin_memErase i hm
  · exact memWithin_memInsert v hi (memWithin_memErase i hm)

/-! ## A store made from cells -/

theorem memOfCells_inv {size : Nat} (cells : List Host.Cell) (m : Mem) (hm : m.wf = true ∧ memWithin size m = true) :
    Mem.wf (cells.foldl (fun m cell => if cell.1 < size then memWrite m cell.1 cell.2 else m) m) = true ∧
    memWithin size (cells.foldl (fun m cell => if cell.1 < size then memWrite m cell.1 cell.2 else m) m) = true := by
  induction cells generalizing m with
  | nil => exact hm
  | cons cell rest ih =>
    apply ih
    beta_reduce
    split
    · rename_i h
      exact ⟨Mem.wf_memWrite _ _ hm.1, memWithin_memWrite _ h hm.2⟩
    · exact hm

/-- A store made from cells is canonical and inside its size, whatever the cells. -/
theorem memOfCells_wf (size : Nat) (cells : List Host.Cell) :
    Mem.wf (memOfCells size cells) = true ∧ memWithin size (memOfCells size cells) = true :=
  memOfCells_inv cells [] ⟨rfl, rfl⟩

/-- The memories of the state after reset are in canonical form: nothing is listed. -/
theorem reset_memories_wf : State.reset.hram.wf = true ∧ State.reset.wram.wf = true ∧ State.reset.lcd.vram.wf = true ∧
    State.reset.lcd.oam.wf = true ∧ State.reset.bootRom.wf = true ∧ State.reset.cart.rom.wf = true ∧
    State.reset.cart.ram.wf = true := ⟨rfl, rfl, rfl, rfl, rfl, rfl, rfl⟩

end Sys2Proof.Machine
end

