-- ==== Sys2Proof/Laws/Bus.lean ====
section
/-! SUPPORT. What the devices and the bus can do: a bus write touches device state alone, it does not see the CPU's
state, and what a read answers in each window of the address map. -/

namespace Sys2Proof.Machine

/-! ## What the display's and the timer's operations do, in closed form -/

/-- `checkLyc` sets LYC_EQ, and requests LCD_STAT when the match is enabled. -/
theorem checkLyc_eq (s : State) :
    checkLyc s = { s with lcd := { s.lcd with lycEq := s.lcd.ly == s.lcd.lyc },
                          iflag := if s.lcd.ly == s.lcd.lyc && s.lcd.statEn.getLsbD 3 then setBit s.iflag 1 true
                                   else s.iflag } := by
  unfold checkLyc request
  cases h : (s.lcd.ly == s.lcd.lyc && s.lcd.statEn.getLsbD 3)
  · simp only [h]; rfl
  · simp only [h]; rfl

/-- `enterMode` sets the mode, and requests LCD_STAT when that mode's enable is set. -/
theorem enterMode_eq (m : LcdMode) (s : State) :
    enterMode m s = { s with lcd := { s.lcd with mode := m },
                             iflag := if m ≠ .transfer ∧ s.lcd.statEn.getLsbD (modeCode m) then setBit s.iflag 1 true
                                      else s.iflag } := by
  unfold enterMode request
  by_cases h : m ≠ .transfer ∧ s.lcd.statEn.getLsbD (modeCode m) = true
  · simp only [if_pos h]; rfl
  · simp only [if_neg h]

/-- `timerTick` counts TIMA, or reloads it and requests the timer interrupt. -/
theorem timerTick_eq (s : State) :
    timerTick s = { s with
      timer := { s.timer with tima := if s.timer.tima = 0xFF then s.timer.tma else s.timer.tima + 1 }
      iflag := if s.timer.tima = 0xFF then setBit s.iflag 2 true else s.iflag } := by
  unfold timerTick request
  by_cases h : s.timer.tima = 0xFF
  · simp only [if_pos h]; rfl
  · simp only [if_neg h]

/-- `timerUpdate` takes the new counter and control, and ticks on a falling edge of the timer state. -/
theorem timerUpdate_eq (n : Word) (tac : BitVec 3) (s : State) :
    timerUpdate n tac s =
      if timerState s.timer && !timerState { s.timer with tcount := n, tac := tac } then
        timerTick { s with timer := { s.timer with tcount := n, tac := tac } }
      else { s with timer := { s.timer with tcount := n, tac := tac } } := rfl

/-! ## Device state and CPU state

`withCpu x s` is s with the CPU-private fields, the cycle counter and the parameters of x. No device reads or writes
them in a bus access. -/

def withCpu (x s : State) : State :=
  { s with regs := x.regs, pc := x.pc, sp := x.sp, ime := x.ime, nextCycle := x.nextCycle, imePending := x.imePending,
           haltBugPending := x.haltBugPending, fault := x.fault, cycles := x.cycles, params := x.params }

@[simp] theorem withCpu_self (s : State) : withCpu s s = s := rfl

@[simp] theorem busRead_withCpu (a : Word) (x s : State) : busRead a (withCpu x s) = busRead a s := rfl

theorem cpuDevWrite_withCpu (a : Word) (v : Byte) (x s : State) :
    cpuDevWrite a v (withCpu x s) = withCpu x (cpuDevWrite a v s) := by
  unfold cpuDevWrite; split_ifs <;> rfl

theorem muxWrite_withCpu (a : Word) (v : Byte) (x s : State) :
    muxWrite a v (withCpu x s) = withCpu x (muxWrite a v s) := by
  unfold muxWrite; dsimp only; split_ifs <;> rfl

theorem request_withCpu (i : Nat) (x s : State) : request i (withCpu x s) = withCpu x (request i s) := rfl

theorem checkLyc_withCpu (x s : State) : checkLyc (withCpu x s) = withCpu x (checkLyc s) := by
  rw [checkLyc_eq, checkLyc_eq]; rfl

theorem writeLcdc_withCpu (v : Byte) (x s : State) : writeLcdc v (withCpu x s) = withCpu x (writeLcdc v s) := by
  unfold writeLcdc
  by_cases h : (lcdcBit s.lcd 7 && !v.getLsbD 7) = true
  · have h' : (lcdcBit (withCpu x s).lcd 7 && !v.getLsbD 7) = true := h
    simp only [if_pos h, if_pos h', setLy]
    exact congrArg (setLcdNext .halted) (checkLyc_withCpu x
      { s with lcd := { s.lcd with lcdc := v, mode := .hblank, ly := 0 } })
  · have h' : ¬ (lcdcBit (withCpu x s).lcd 7 && !v.getLsbD 7) = true := h
    simp only [if_neg h, if_neg h']; rfl

theorem lcdWrite_withCpu (a : Word) (v : Byte) (x s : State) :
    lcdWrite a v (withCpu x s) = withCpu x (lcdWrite a v s) := by
  unfold lcdWrite
  repeat' (rw [apply_ite (withCpu x)]; refine ite_congr rfl (fun _ => ?_) fun _ => ?_)
  all_goals first
    | exact writeLcdc_withCpu v x s
    | exact checkLyc_withCpu x { s with lcd := { s.lcd with lyc := v } }
    | rfl

theorem wramViewWrite_withCpu (p q : Nat) (a : Word) (v : Byte) (x s : State) :
    wramViewWrite p q a v (withCpu x s) = withCpu x (wramViewWrite p q a v s) := by
  unfold wramViewWrite; split_ifs <;> rfl

theorem timerTick_withCpu (x s : State) : timerTick (withCpu x s) = withCpu x (timerTick s) := by
  rw [timerTick_eq, timerTick_eq]; rfl

theorem timerUpdate_withCpu (n : Word) (tac : BitVec 3) (x s : State) :
    timerUpdate n tac (withCpu x s) = withCpu x (timerUpdate n tac s) := by
  unfold timerUpdate
  dsimp only
  by_cases h : (timerState s.timer && !timerState { s.timer with tcount := n, tac := tac }) = true
  · rw [if_pos h]
    refine (if_pos (by exact h)).trans ?_
    exact timerTick_withCpu x { s with timer := { s.timer with tcount := n, tac := tac } }
  · rw [if_neg h]
    exact if_neg (by exact h)

theorem timerWrite_withCpu (a : Word) (v : Byte) (x s : State) :
    timerWrite a v (withCpu x s) = withCpu x (timerWrite a v s) := by
  unfold timerWrite
  split_ifs
  all_goals first
    | rfl
    | exact timerUpdate_withCpu _ _ x s

/-- A bus write does not see the CPU's state, the cycle counter or the parameters, and leaves them as they are. -/
theorem busWrite_withCpu (a : Word) (v : Byte) (x s : State) :
    busWrite a v (withCpu x s) = withCpu x (busWrite a v s) := by
  unfold busWrite
  rw [cpuDevWrite_withCpu, muxWrite_withCpu, lcdWrite_withCpu, wramViewWrite_withCpu, wramViewWrite_withCpu,
    timerWrite_withCpu]

theorem busWrite_eq_withCpu (a : Word) (v : Byte) (s : State) : busWrite a v s = withCpu s (busWrite a v s) := by
  rw [← busWrite_withCpu, withCpu_self]

/-! ### What a bus write leaves unchanged, field by field -/

section
variable (a : Word) (v : Byte) (s : State)

@[simp] theorem busWrite_regs : (busWrite a v s).regs = s.regs := by rw [busWrite_eq_withCpu]; rfl
@[simp] theorem busWrite_pc : (busWrite a v s).pc = s.pc := by rw [busWrite_eq_withCpu]; rfl
@[simp] theorem busWrite_sp : (busWrite a v s).sp = s.sp := by rw [busWrite_eq_withCpu]; rfl
@[simp] theorem busWrite_ime : (busWrite a v s).ime = s.ime := by rw [busWrite_eq_withCpu]; rfl
@[simp] theorem busWrite_nextCycle : (busWrite a v s).nextCycle = s.nextCycle := by rw [busWrite_eq_withCpu]; rfl
@[simp] theorem busWrite_imePending : (busWrite a v s).imePending = s.imePending := by rw [busWrite_eq_withCpu]; rfl
@[simp] theorem busWrite_haltBugPending : (busWrite a v s).haltBugPending = s.haltBugPending := by
  rw [busWrite_eq_withCpu]; rfl
@[simp] theorem busWrite_fault : (busWrite a v s).fault = s.fault := by rw [busWrite_eq_withCpu]; rfl
@[simp] theorem busWrite_cycles : (busWrite a v s).cycles = s.cycles := by rw [busWrite_eq_withCpu]; rfl
@[simp] theorem busWrite_params : (busWrite a v s).params = s.params := by rw [busWrite_eq_withCpu]; rfl

end

/-! ## Where each device answers -/

theorem cpuDevRead_none {a : Word} (h : a.toNat < 0xFF80) (h' : a ≠ 0xFF0F) (s : State) : cpuDevRead a s = none := by
  unfold cpuDevRead
  rw [if_neg h', if_neg (by omega), if_neg]
  rintro rfl; exact absurd h (by decide)

theorem cpuDevWrite_none {a : Word} (h : a.toNat < 0xFF80) (h' : a ≠ 0xFF0F) (v : Byte) (s : State) :
    cpuDevWrite a v s = s := by
  unfold cpuDevWrite
  rw [if_neg h', if_neg (by omega), if_neg]
  rintro rfl; exact absurd h (by decide)

theorem muxRead_none {a : Word} (h : 0x8000 ≤ a.toNat) (h' : a.toNat < 0xA000 ∨ 0xC000 ≤ a.toNat) (s : State) :
    muxRead a s = none := by
  unfold muxRead muxForwards
  rw [if_neg (by simp; omega), if_neg (by simp; omega)]

theorem muxWrite_none {a : Word} (h : 0x8000 ≤ a.toNat) (h' : a.toNat < 0xA000 ∨ 0xC000 ≤ a.toNat) (h50 : a ≠ 0xFF50)
    (v : Byte) (s : State) : muxWrite a v s = s := by
  unfold muxWrite muxForwards
  dsimp only
  rw [if_neg (by simp; omega), if_neg h50]

theorem lcdRead_none {a : Word} (h : a.toNat < 0x8000 ∨ 0xA000 ≤ a.toNat) (h' : a.toNat < 0xFE00 ∨ 0xFEA0 ≤ a.toNat)
    (h'' : a.toNat < 0xFF40 ∨ 0xFF4C ≤ a.toNat) (s : State) : lcdRead a s = none := by
  unfold lcdRead
  rw [if_neg (by omega), if_neg (by omega)]
  repeat rw [if_neg (by rintro rfl; revert h''; decide)]

theorem lcdWrite_none {a : Word} (h : a.toNat < 0x8000 ∨ 0xA000 ≤ a.toNat) (h' : a.toNat < 0xFE00 ∨ 0xFEA0 ≤ a.toNat)
    (h'' : a.toNat < 0xFF40 ∨ 0xFF4C ≤ a.toNat) (v : Byte) (s : State) : lcdWrite a v s = s := by
  unfold lcdWrite
  rw [if_neg (by omega), if_neg (by omega)]
  repeat rw [if_neg (by rintro rfl; revert h''; decide)]

theorem wramViewRead_none {p q : Nat} {a : Word} (h : a.toNat < p ∨ q ≤ a.toNat) (s : State) :
    wramViewRead p q a s = none := by
  unfold wramViewRead; rw [if_neg (by omega)]

theorem wramViewWrite_none {p q : Nat} {a : Word} (h : a.toNat < p ∨ q ≤ a.toNat) (v : Byte) (s : State) :
    wramViewWrite p q a v s = s := by
  unfold wramViewWrite; rw [if_neg (by omega)]

theorem timerRead_none {a : Word} (h : a.toNat < 0xFF04 ∨ 0xFF08 ≤ a.toNat) (s : State) : timerRead a s = none := by
  unfold timerRead
  repeat rw [if_neg (by rintro rfl; revert h; decide)]

theorem timerWrite_none {a : Word} (h : a.toNat < 0xFF04 ∨ 0xFF08 ≤ a.toNat) (v : Byte) (s : State) :
    timerWrite a v s = s := by
  unfold timerWrite
  repeat rw [if_neg (by rintro rfl; revert h; decide)]

theorem ne_of_toNat {a : Word} {n : Nat} (h : a.toNat ≠ n % 65536) : a ≠ BitVec.ofNat 16 n := by
  rintro rfl; exact h rfl

/-! ## The bus, window by window (20_memory.md R210) -/

section
variable {a : Word} (s : State) (v : Byte)

/-- 0x0000 to 0x7FFF and 0xA000 to 0xBFFF: the multiplexer, with the cartridge behind it. -/
theorem busRead_mux (h : a.toNat < 0x8000 ∨ 0xA000 ≤ a.toNat ∧ a.toNat < 0xC000) :
    busRead a s = (muxRead a s).getD 0xFF := by
  have ha : a ≠ 0xFF0F := ne_of_toNat (n := 0xFF0F) (by omega)
  simp [busRead, deviceRead, cpuDevRead_none (by omega) ha, lcdRead_none (a := a) (by omega) (by omega) (by omega),
    wramViewRead_none (a := a) (p := 0xC000) (q := 0xE000) (by omega),
    wramViewRead_none (a := a) (p := 0xE000) (q := 0xFE00) (by omega), timerRead_none (a := a) (by omega), openBus]

theorem busWrite_mux (h : a.toNat < 0x8000 ∨ 0xA000 ≤ a.toNat ∧ a.toNat < 0xC000) :
    busWrite a v s = { s with cart := cartWrite a.toNat v s.cart } := by
  have ha : a ≠ 0xFF0F := ne_of_toNat (n := 0xFF0F) (by omega)
  have ha' : a ≠ 0xFF50 := ne_of_toNat (n := 0xFF50) (by omega)
  have hf : muxForwards a = true := by simp [muxForwards]; omega
  rw [busWrite, cpuDevWrite_none (by omega) ha, lcdWrite_none (by omega) (by omega) (by omega),
    wramViewWrite_none (by omega), wramViewWrite_none (by omega), timerWrite_none (by omega), muxWrite, if_neg ha',
    if_pos hf]

/-- 0x8000 to 0x9FFF: video RAM. -/
theorem busRead_vram (h : 0x8000 ≤ a.toNat) (h' : a.toNat < 0xA000) :
    busRead a s = memRead s.lcd.vram (a.toNat - 0x8000) := by
  have ha : a ≠ 0xFF0F := ne_of_toNat (n := 0xFF0F) (by omega)
  simp [busRead, deviceRead, cpuDevRead_none (by omega) ha, muxRead_none h (.inl h'), lcdRead, h, h']

theorem busWrite_vram (h : 0x8000 ≤ a.toNat) (h' : a.toNat < 0xA000) :
    busWrite a v s = { s with lcd := { s.lcd with vram := memWrite s.lcd.vram (a.toNat - 0x8000) v } } := by
  have ha : a ≠ 0xFF0F := ne_of_toNat (n := 0xFF0F) (by omega)
  have ha' : a ≠ 0xFF50 := ne_of_toNat (n := 0xFF50) (by omega)
  rw [busWrite, cpuDevWrite_none (by omega) ha, muxWrite_none h (.inl h') ha', wramViewWrite_none (by omega),
    wramViewWrite_none (by omega), timerWrite_none (by omega), lcdWrite, if_pos ⟨h, h'⟩]

/-- 0xC000 to 0xDFFF: work RAM. -/
theorem busRead_wram (h : 0xC000 ≤ a.toNat) (h' : a.toNat < 0xE000) :
    busRead a s = memRead s.wram (a.toNat - 0xC000) := by
  have ha : a ≠ 0xFF0F := ne_of_toNat (n := 0xFF0F) (by omega)
  simp [busRead, deviceRead, cpuDevRead_none (by omega) ha, muxRead_none (a := a) (by omega) (.inr h),
    lcdRead_none (a := a) (by omega) (by omega) (by omega), wramViewRead, h, h']

theorem busWrite_wram (h : 0xC000 ≤ a.toNat) (h' : a.toNat < 0xE000) :
    busWrite a v s = { s with wram := memWrite s.wram (a.toNat - 0xC000) v } := by
  have ha : a ≠ 0xFF0F := ne_of_toNat (n := 0xFF0F) (by omega)
  have ha' : a ≠ 0xFF50 := ne_of_toNat (n := 0xFF50) (by omega)
  rw [busWrite, cpuDevWrite_none (by omega) ha, muxWrite_none (by omega) (.inr h) ha',
    lcdWrite_none (by omega) (by omega) (by omega), wramViewWrite_none (p := 0xE000) (by omega),
    timerWrite_none (by omega), wramViewWrite, if_pos ⟨h, h'⟩]

/-- 0xE000 to 0xFDFF: the echo. -/
theorem busRead_echo (h : 0xE000 ≤ a.toNat) (h' : a.toNat < 0xFE00) :
    busRead a s = memRead s.wram (a.toNat - 0xE000) := by
  have ha : a ≠ 0xFF0F := ne_of_toNat (n := 0xFF0F) (by omega)
  simp [busRead, deviceRead, cpuDevRead_none (by omega) ha, muxRead_none (a := a) (by omega) (.inr (by omega)),
    lcdRead_none (a := a) (by omega) (by omega) (by omega), wramViewRead, h, h', show ¬ a.toNat < 0xE000 by omega]

theorem busWrite_echo (h : 0xE000 ≤ a.toNat) (h' : a.toNat < 0xFE00) :
    busWrite a v s = { s with wram := memWrite s.wram (a.toNat - 0xE000) v } := by
  have ha : a ≠ 0xFF0F := ne_of_toNat (n := 0xFF0F) (by omega)
  have ha' : a ≠ 0xFF50 := ne_of_toNat (n := 0xFF50) (by omega)
  rw [busWrite, cpuDevWrite_none (by omega) ha, muxWrite_none (by omega) (.inr (by omega)) ha',
    lcdWrite_none (by omega) (by omega) (by omega), wramViewWrite_none (p := 0xC000) (by omega),
    timerWrite_none (by omega), wramViewWrite, if_pos ⟨h, h'⟩]

/-- 0xFE00 to 0xFE9F: OAM. -/
theorem busRead_oam (h : 0xFE00 ≤ a.toNat) (h' : a.toNat < 0xFEA0) :
    busRead a s = memRead s.lcd.oam (a.toNat - 0xFE00) := by
  have ha : a ≠ 0xFF0F := ne_of_toNat (n := 0xFF0F) (by omega)
  simp [busRead, deviceRead, cpuDevRead_none (by omega) ha, muxRead_none (a := a) (by omega) (.inr (by omega)), lcdRead, h, h',
    show ¬ a.toNat < 0xA000 by omega]

theorem busWrite_oam (h : 0xFE00 ≤ a.toNat) (h' : a.toNat < 0xFEA0) :
    busWrite a v s = { s with lcd := { s.lcd with oam := memWrite s.lcd.oam (a.toNat - 0xFE00) v } } := by
  have ha : a ≠ 0xFF0F := ne_of_toNat (n := 0xFF0F) (by omega)
  have ha' : a ≠ 0xFF50 := ne_of_toNat (n := 0xFF50) (by omega)
  rw [busWrite, cpuDevWrite_none (by omega) ha, muxWrite_none (by omega) (.inr (by omega)) ha', wramViewWrite_none (by omega),
    wramViewWrite_none (by omega), timerWrite_none (by omega), lcdWrite, if_neg (by omega), if_pos ⟨h, h'⟩]

/-- 0xFF80 to 0xFFFE: high RAM. -/
theorem busRead_hram (h : 0xFF80 ≤ a.toNat) (h' : a.toNat < 0xFFFF) :
    busRead a s = memRead s.hram (a.toNat - 0xFF80) := by
  have ha : a ≠ 0xFF0F := ne_of_toNat (n := 0xFF0F) (by omega)
  rw [busRead, deviceRead, cpuDevRead, if_neg ha, if_pos ⟨h, h'⟩]; rfl

theorem busWrite_hram (h : 0xFF80 ≤ a.toNat) (h' : a.toNat < 0xFFFF) :
    busWrite a v s = { s with hram := memWrite s.hram (a.toNat - 0xFF80) v } := by
  have ha : a ≠ 0xFF0F := ne_of_toNat (n := 0xFF0F) (by omega)
  have ha' : a ≠ 0xFF50 := ne_of_toNat (n := 0xFF50) (by omega)
  rw [busWrite, muxWrite_none (by omega) (.inr (by omega)) ha',
    lcdWrite_none (by omega) (by omega) (by omega), wramViewWrite_none (by omega), wramViewWrite_none (by omega),
    timerWrite_none (by omega), cpuDevWrite, if_neg ha, if_pos ⟨h, h'⟩]

/-- 0xFF40 to 0xFF4B: the display's registers. -/
theorem busRead_lcdReg (h : 0xFF40 ≤ a.toNat) (h' : a.toNat < 0xFF4C) : busRead a s = (lcdRead a s).getD 0xFF := by
  have ha : a ≠ 0xFF0F := ne_of_toNat (n := 0xFF0F) (by omega)
  simp [busRead, deviceRead, cpuDevRead_none (a := a) (by omega) ha, muxRead_none (a := a) (by omega) (.inr (by omega)),
    wramViewRead_none (a := a) (p := 0xC000) (q := 0xE000) (by omega),
    wramViewRead_none (a := a) (p := 0xE000) (q := 0xFE00) (by omega), timerRead_none (a := a) (by omega), openBus]

theorem busWrite_lcdReg (h : 0xFF40 ≤ a.toNat) (h' : a.toNat < 0xFF4C) : busWrite a v s = lcdWrite a v s := by
  have ha : a ≠ 0xFF0F := ne_of_toNat (n := 0xFF0F) (by omega)
  have ha' : a ≠ 0xFF50 := ne_of_toNat (n := 0xFF50) (by omega)
  rw [busWrite, cpuDevWrite_none (by omega) ha, muxWrite_none (by omega) (.inr (by omega)) ha',
    wramViewWrite_none (by omega), wramViewWrite_none (by omega), timerWrite_none (by omega)]

/-- 0xFF04 to 0xFF07: the timer's registers. -/
theorem busRead_timerReg (h : 0xFF04 ≤ a.toNat) (h' : a.toNat < 0xFF08) : busRead a s = (timerRead a s).getD 0xFF := by
  have ha : a ≠ 0xFF0F := ne_of_toNat (n := 0xFF0F) (by omega)
  simp [busRead, deviceRead, cpuDevRead_none (a := a) (by omega) ha, muxRead_none (a := a) (by omega) (.inr (by omega)),
    wramViewRead_none (a := a) (p := 0xC000) (q := 0xE000) (by omega),
    wramViewRead_none (a := a) (p := 0xE000) (q := 0xFE00) (by omega),
    lcdRead_none (a := a) (by omega) (by omega) (by omega), openBus]

theorem busWrite_timerReg (h : 0xFF04 ≤ a.toNat) (h' : a.toNat < 0xFF08) : busWrite a v s = timerWrite a v s := by
  have ha : a ≠ 0xFF0F := ne_of_toNat (n := 0xFF0F) (by omega)
  have ha' : a ≠ 0xFF50 := ne_of_toNat (n := 0xFF50) (by omega)
  rw [busWrite, cpuDevWrite_none (by omega) ha, muxWrite_none (by omega) (.inr (by omega)) ha',
    wramViewWrite_none (by omega), wramViewWrite_none (by omega), lcdWrite_none (by omega) (by omega) (by omega)]

/-- IF and IE. -/
theorem busRead_if : busRead 0xFF0F s = 0xE0 ||| s.iflag.setWidth 8 := rfl
theorem busRead_ie : busRead 0xFFFF s = s.ie := rfl
theorem busWrite_if : busWrite 0xFF0F v s = { s with iflag := v.setWidth 5 } := rfl
theorem busWrite_ie : busWrite 0xFFFF v s = { s with ie := v } := rfl

end

end Sys2Proof.Machine
end

