-- ==== Sys2Proof/Laws/State.lean ====
section
/-! SUPPORT. What each update of the state leaves in each field: one lemma per field and update. -/

namespace Sys2Proof.Machine

variable (s : State)

/-! ## writeReg -/

@[simp] theorem writeReg_regs (r : RegId) (v : Byte) : (writeReg r v s).regs = regsSet r v s.regs := rfl
@[simp] theorem writeReg_pc (r : RegId) (v : Byte) : (writeReg r v s).pc = s.pc := rfl
@[simp] theorem writeReg_sp (r : RegId) (v : Byte) : (writeReg r v s).sp = s.sp := rfl
@[simp] theorem writeReg_ime (r : RegId) (v : Byte) : (writeReg r v s).ime = s.ime := rfl
@[simp] theorem writeReg_ie (r : RegId) (v : Byte) : (writeReg r v s).ie = s.ie := rfl
@[simp] theorem writeReg_iflag (r : RegId) (v : Byte) : (writeReg r v s).iflag = s.iflag := rfl
@[simp] theorem writeReg_nextCycle (r : RegId) (v : Byte) : (writeReg r v s).nextCycle = s.nextCycle := rfl
@[simp] theorem writeReg_imePending (r : RegId) (v : Byte) : (writeReg r v s).imePending = s.imePending := rfl
@[simp] theorem writeReg_haltBugPending (r : RegId) (v : Byte) : (writeReg r v s).haltBugPending = s.haltBugPending := rfl
@[simp] theorem writeReg_fault (r : RegId) (v : Byte) : (writeReg r v s).fault = s.fault := rfl
@[simp] theorem writeReg_hram (r : RegId) (v : Byte) : (writeReg r v s).hram = s.hram := rfl
@[simp] theorem writeReg_timer (r : RegId) (v : Byte) : (writeReg r v s).timer = s.timer := rfl
@[simp] theorem writeReg_lcd (r : RegId) (v : Byte) : (writeReg r v s).lcd = s.lcd := rfl
@[simp] theorem writeReg_wram (r : RegId) (v : Byte) : (writeReg r v s).wram = s.wram := rfl
@[simp] theorem writeReg_bootDisabled (r : RegId) (v : Byte) : (writeReg r v s).bootDisabled = s.bootDisabled := rfl
@[simp] theorem writeReg_bootRom (r : RegId) (v : Byte) : (writeReg r v s).bootRom = s.bootRom := rfl
@[simp] theorem writeReg_cart (r : RegId) (v : Byte) : (writeReg r v s).cart = s.cart := rfl
@[simp] theorem writeReg_cycles (r : RegId) (v : Byte) : (writeReg r v s).cycles = s.cycles := rfl
@[simp] theorem writeReg_params (r : RegId) (v : Byte) : (writeReg r v s).params = s.params := rfl

/-! ## writeR8 -/

@[simp] theorem writeR8_regs (r : R8) (v : Byte) : (writeR8 r v s).regs = regsSet (regOfR8 r) v s.regs := rfl
@[simp] theorem writeR8_pc (r : R8) (v : Byte) : (writeR8 r v s).pc = s.pc := rfl
@[simp] theorem writeR8_sp (r : R8) (v : Byte) : (writeR8 r v s).sp = s.sp := rfl
@[simp] theorem writeR8_ime (r : R8) (v : Byte) : (writeR8 r v s).ime = s.ime := rfl
@[simp] theorem writeR8_ie (r : R8) (v : Byte) : (writeR8 r v s).ie = s.ie := rfl
@[simp] theorem writeR8_iflag (r : R8) (v : Byte) : (writeR8 r v s).iflag = s.iflag := rfl
@[simp] theorem writeR8_nextCycle (r : R8) (v : Byte) : (writeR8 r v s).nextCycle = s.nextCycle := rfl
@[simp] theorem writeR8_imePending (r : R8) (v : Byte) : (writeR8 r v s).imePending = s.imePending := rfl
@[simp] theorem writeR8_haltBugPending (r : R8) (v : Byte) : (writeR8 r v s).haltBugPending = s.haltBugPending := rfl
@[simp] theorem writeR8_fault (r : R8) (v : Byte) : (writeR8 r v s).fault = s.fault := rfl
@[simp] theorem writeR8_hram (r : R8) (v : Byte) : (writeR8 r v s).hram = s.hram := rfl
@[simp] theorem writeR8_timer (r : R8) (v : Byte) : (writeR8 r v s).timer = s.timer := rfl
@[simp] theorem writeR8_lcd (r : R8) (v : Byte) : (writeR8 r v s).lcd = s.lcd := rfl
@[simp] theorem writeR8_wram (r : R8) (v : Byte) : (writeR8 r v s).wram = s.wram := rfl
@[simp] theorem writeR8_bootDisabled (r : R8) (v : Byte) : (writeR8 r v s).bootDisabled = s.bootDisabled := rfl
@[simp] theorem writeR8_bootRom (r : R8) (v : Byte) : (writeR8 r v s).bootRom = s.bootRom := rfl
@[simp] theorem writeR8_cart (r : R8) (v : Byte) : (writeR8 r v s).cart = s.cart := rfl
@[simp] theorem writeR8_cycles (r : R8) (v : Byte) : (writeR8 r v s).cycles = s.cycles := rfl
@[simp] theorem writeR8_params (r : R8) (v : Byte) : (writeR8 r v s).params = s.params := rfl

/-! ## writeFlags -/

@[simp] theorem writeFlags_regs (f : Flags) : (writeFlags f s).regs = { s.regs with f := f } := rfl
@[simp] theorem writeFlags_pc (f : Flags) : (writeFlags f s).pc = s.pc := rfl
@[simp] theorem writeFlags_sp (f : Flags) : (writeFlags f s).sp = s.sp := rfl
@[simp] theorem writeFlags_ime (f : Flags) : (writeFlags f s).ime = s.ime := rfl
@[simp] theorem writeFlags_ie (f : Flags) : (writeFlags f s).ie = s.ie := rfl
@[simp] theorem writeFlags_iflag (f : Flags) : (writeFlags f s).iflag = s.iflag := rfl
@[simp] theorem writeFlags_nextCycle (f : Flags) : (writeFlags f s).nextCycle = s.nextCycle := rfl
@[simp] theorem writeFlags_imePending (f : Flags) : (writeFlags f s).imePending = s.imePending := rfl
@[simp] theorem writeFlags_haltBugPending (f : Flags) : (writeFlags f s).haltBugPending = s.haltBugPending := rfl
@[simp] theorem writeFlags_fault (f : Flags) : (writeFlags f s).fault = s.fault := rfl
@[simp] theorem writeFlags_hram (f : Flags) : (writeFlags f s).hram = s.hram := rfl
@[simp] theorem writeFlags_timer (f : Flags) : (writeFlags f s).timer = s.timer := rfl
@[simp] theorem writeFlags_lcd (f : Flags) : (writeFlags f s).lcd = s.lcd := rfl
@[simp] theorem writeFlags_wram (f : Flags) : (writeFlags f s).wram = s.wram := rfl
@[simp] theorem writeFlags_bootDisabled (f : Flags) : (writeFlags f s).bootDisabled = s.bootDisabled := rfl
@[simp] theorem writeFlags_bootRom (f : Flags) : (writeFlags f s).bootRom = s.bootRom := rfl
@[simp] theorem writeFlags_cart (f : Flags) : (writeFlags f s).cart = s.cart := rfl
@[simp] theorem writeFlags_cycles (f : Flags) : (writeFlags f s).cycles = s.cycles := rfl
@[simp] theorem writeFlags_params (f : Flags) : (writeFlags f s).params = s.params := rfl

/-! ## writeBc -/

@[simp] theorem writeBc_regs (v : Word) : (writeBc v s).regs = { s.regs with b := hiByte v, c := loByte v } := rfl
@[simp] theorem writeBc_pc (v : Word) : (writeBc v s).pc = s.pc := rfl
@[simp] theorem writeBc_sp (v : Word) : (writeBc v s).sp = s.sp := rfl
@[simp] theorem writeBc_ime (v : Word) : (writeBc v s).ime = s.ime := rfl
@[simp] theorem writeBc_ie (v : Word) : (writeBc v s).ie = s.ie := rfl
@[simp] theorem writeBc_iflag (v : Word) : (writeBc v s).iflag = s.iflag := rfl
@[simp] theorem writeBc_nextCycle (v : Word) : (writeBc v s).nextCycle = s.nextCycle := rfl
@[simp] theorem writeBc_imePending (v : Word) : (writeBc v s).imePending = s.imePending := rfl
@[simp] theorem writeBc_haltBugPending (v : Word) : (writeBc v s).haltBugPending = s.haltBugPending := rfl
@[simp] theorem writeBc_fault (v : Word) : (writeBc v s).fault = s.fault := rfl
@[simp] theorem writeBc_hram (v : Word) : (writeBc v s).hram = s.hram := rfl
@[simp] theorem writeBc_timer (v : Word) : (writeBc v s).timer = s.timer := rfl
@[simp] theorem writeBc_lcd (v : Word) : (writeBc v s).lcd = s.lcd := rfl
@[simp] theorem writeBc_wram (v : Word) : (writeBc v s).wram = s.wram := rfl
@[simp] theorem writeBc_bootDisabled (v : Word) : (writeBc v s).bootDisabled = s.bootDisabled := rfl
@[simp] theorem writeBc_bootRom (v : Word) : (writeBc v s).bootRom = s.bootRom := rfl
@[simp] theorem writeBc_cart (v : Word) : (writeBc v s).cart = s.cart := rfl
@[simp] theorem writeBc_cycles (v : Word) : (writeBc v s).cycles = s.cycles := rfl
@[simp] theorem writeBc_params (v : Word) : (writeBc v s).params = s.params := rfl

/-! ## writeDe -/

@[simp] theorem writeDe_regs (v : Word) : (writeDe v s).regs = { s.regs with d := hiByte v, e := loByte v } := rfl
@[simp] theorem writeDe_pc (v : Word) : (writeDe v s).pc = s.pc := rfl
@[simp] theorem writeDe_sp (v : Word) : (writeDe v s).sp = s.sp := rfl
@[simp] theorem writeDe_ime (v : Word) : (writeDe v s).ime = s.ime := rfl
@[simp] theorem writeDe_ie (v : Word) : (writeDe v s).ie = s.ie := rfl
@[simp] theorem writeDe_iflag (v : Word) : (writeDe v s).iflag = s.iflag := rfl
@[simp] theorem writeDe_nextCycle (v : Word) : (writeDe v s).nextCycle = s.nextCycle := rfl
@[simp] theorem writeDe_imePending (v : Word) : (writeDe v s).imePending = s.imePending := rfl
@[simp] theorem writeDe_haltBugPending (v : Word) : (writeDe v s).haltBugPending = s.haltBugPending := rfl
@[simp] theorem writeDe_fault (v : Word) : (writeDe v s).fault = s.fault := rfl
@[simp] theorem writeDe_hram (v : Word) : (writeDe v s).hram = s.hram := rfl
@[simp] theorem writeDe_timer (v : Word) : (writeDe v s).timer = s.timer := rfl
@[simp] theorem writeDe_lcd (v : Word) : (writeDe v s).lcd = s.lcd := rfl
@[simp] theorem writeDe_wram (v : Word) : (writeDe v s).wram = s.wram := rfl
@[simp] theorem writeDe_bootDisabled (v : Word) : (writeDe v s).bootDisabled = s.bootDisabled := rfl
@[simp] theorem writeDe_bootRom (v : Word) : (writeDe v s).bootRom = s.bootRom := rfl
@[simp] theorem writeDe_cart (v : Word) : (writeDe v s).cart = s.cart := rfl
@[simp] theorem writeDe_cycles (v : Word) : (writeDe v s).cycles = s.cycles := rfl
@[simp] theorem writeDe_params (v : Word) : (writeDe v s).params = s.params := rfl

/-! ## writeHl -/

@[simp] theorem writeHl_regs (v : Word) : (writeHl v s).regs = { s.regs with h := hiByte v, l := loByte v } := rfl
@[simp] theorem writeHl_pc (v : Word) : (writeHl v s).pc = s.pc := rfl
@[simp] theorem writeHl_sp (v : Word) : (writeHl v s).sp = s.sp := rfl
@[simp] theorem writeHl_ime (v : Word) : (writeHl v s).ime = s.ime := rfl
@[simp] theorem writeHl_ie (v : Word) : (writeHl v s).ie = s.ie := rfl
@[simp] theorem writeHl_iflag (v : Word) : (writeHl v s).iflag = s.iflag := rfl
@[simp] theorem writeHl_nextCycle (v : Word) : (writeHl v s).nextCycle = s.nextCycle := rfl
@[simp] theorem writeHl_imePending (v : Word) : (writeHl v s).imePending = s.imePending := rfl
@[simp] theorem writeHl_haltBugPending (v : Word) : (writeHl v s).haltBugPending = s.haltBugPending := rfl
@[simp] theorem writeHl_fault (v : Word) : (writeHl v s).fault = s.fault := rfl
@[simp] theorem writeHl_hram (v : Word) : (writeHl v s).hram = s.hram := rfl
@[simp] theorem writeHl_timer (v : Word) : (writeHl v s).timer = s.timer := rfl
@[simp] theorem writeHl_lcd (v : Word) : (writeHl v s).lcd = s.lcd := rfl
@[simp] theorem writeHl_wram (v : Word) : (writeHl v s).wram = s.wram := rfl
@[simp] theorem writeHl_bootDisabled (v : Word) : (writeHl v s).bootDisabled = s.bootDisabled := rfl
@[simp] theorem writeHl_bootRom (v : Word) : (writeHl v s).bootRom = s.bootRom := rfl
@[simp] theorem writeHl_cart (v : Word) : (writeHl v s).cart = s.cart := rfl
@[simp] theorem writeHl_cycles (v : Word) : (writeHl v s).cycles = s.cycles := rfl
@[simp] theorem writeHl_params (v : Word) : (writeHl v s).params = s.params := rfl

/-! ## writeAf -/

@[simp] theorem writeAf_regs (v : Word) : (writeAf v s).regs = { s.regs with a := hiByte v, f := flagsOfByte (loByte v) } := rfl
@[simp] theorem writeAf_pc (v : Word) : (writeAf v s).pc = s.pc := rfl
@[simp] theorem writeAf_sp (v : Word) : (writeAf v s).sp = s.sp := rfl
@[simp] theorem writeAf_ime (v : Word) : (writeAf v s).ime = s.ime := rfl
@[simp] theorem writeAf_ie (v : Word) : (writeAf v s).ie = s.ie := rfl
@[simp] theorem writeAf_iflag (v : Word) : (writeAf v s).iflag = s.iflag := rfl
@[simp] theorem writeAf_nextCycle (v : Word) : (writeAf v s).nextCycle = s.nextCycle := rfl
@[simp] theorem writeAf_imePending (v : Word) : (writeAf v s).imePending = s.imePending := rfl
@[simp] theorem writeAf_haltBugPending (v : Word) : (writeAf v s).haltBugPending = s.haltBugPending := rfl
@[simp] theorem writeAf_fault (v : Word) : (writeAf v s).fault = s.fault := rfl
@[simp] theorem writeAf_hram (v : Word) : (writeAf v s).hram = s.hram := rfl
@[simp] theorem writeAf_timer (v : Word) : (writeAf v s).timer = s.timer := rfl
@[simp] theorem writeAf_lcd (v : Word) : (writeAf v s).lcd = s.lcd := rfl
@[simp] theorem writeAf_wram (v : Word) : (writeAf v s).wram = s.wram := rfl
@[simp] theorem writeAf_bootDisabled (v : Word) : (writeAf v s).bootDisabled = s.bootDisabled := rfl
@[simp] theorem writeAf_bootRom (v : Word) : (writeAf v s).bootRom = s.bootRom := rfl
@[simp] theorem writeAf_cart (v : Word) : (writeAf v s).cart = s.cart := rfl
@[simp] theorem writeAf_cycles (v : Word) : (writeAf v s).cycles = s.cycles := rfl
@[simp] theorem writeAf_params (v : Word) : (writeAf v s).params = s.params := rfl

/-! ## popSp -/

@[simp] theorem popSp_regs : (popSp s).regs = s.regs := rfl
@[simp] theorem popSp_pc : (popSp s).pc = s.pc := rfl
@[simp] theorem popSp_sp : (popSp s).sp = s.sp + 2 := rfl
@[simp] theorem popSp_ime : (popSp s).ime = s.ime := rfl
@[simp] theorem popSp_ie : (popSp s).ie = s.ie := rfl
@[simp] theorem popSp_iflag : (popSp s).iflag = s.iflag := rfl
@[simp] theorem popSp_nextCycle : (popSp s).nextCycle = s.nextCycle := rfl
@[simp] theorem popSp_imePending : (popSp s).imePending = s.imePending := rfl
@[simp] theorem popSp_haltBugPending : (popSp s).haltBugPending = s.haltBugPending := rfl
@[simp] theorem popSp_fault : (popSp s).fault = s.fault := rfl
@[simp] theorem popSp_hram : (popSp s).hram = s.hram := rfl
@[simp] theorem popSp_timer : (popSp s).timer = s.timer := rfl
@[simp] theorem popSp_lcd : (popSp s).lcd = s.lcd := rfl
@[simp] theorem popSp_wram : (popSp s).wram = s.wram := rfl
@[simp] theorem popSp_bootDisabled : (popSp s).bootDisabled = s.bootDisabled := rfl
@[simp] theorem popSp_bootRom : (popSp s).bootRom = s.bootRom := rfl
@[simp] theorem popSp_cart : (popSp s).cart = s.cart := rfl
@[simp] theorem popSp_cycles : (popSp s).cycles = s.cycles := rfl
@[simp] theorem popSp_params : (popSp s).params = s.params := rfl

/-! ## jumpTo -/

@[simp] theorem jumpTo_regs (target : Word) (cost : Nat) : (jumpTo target cost s).regs = s.regs := rfl
@[simp] theorem jumpTo_pc (target : Word) (cost : Nat) : (jumpTo target cost s).pc = target := rfl
@[simp] theorem jumpTo_sp (target : Word) (cost : Nat) : (jumpTo target cost s).sp = s.sp := rfl
@[simp] theorem jumpTo_ime (target : Word) (cost : Nat) : (jumpTo target cost s).ime = s.ime := rfl
@[simp] theorem jumpTo_ie (target : Word) (cost : Nat) : (jumpTo target cost s).ie = s.ie := rfl
@[simp] theorem jumpTo_iflag (target : Word) (cost : Nat) : (jumpTo target cost s).iflag = s.iflag := rfl
@[simp] theorem jumpTo_nextCycle (target : Word) (cost : Nat) : (jumpTo target cost s).nextCycle = .cycle (s.cycles + cost) := rfl
@[simp] theorem jumpTo_imePending (target : Word) (cost : Nat) : (jumpTo target cost s).imePending = s.imePending := rfl
@[simp] theorem jumpTo_haltBugPending (target : Word) (cost : Nat) : (jumpTo target cost s).haltBugPending = s.haltBugPending := rfl
@[simp] theorem jumpTo_fault (target : Word) (cost : Nat) : (jumpTo target cost s).fault = s.fault := rfl
@[simp] theorem jumpTo_hram (target : Word) (cost : Nat) : (jumpTo target cost s).hram = s.hram := rfl
@[simp] theorem jumpTo_timer (target : Word) (cost : Nat) : (jumpTo target cost s).timer = s.timer := rfl
@[simp] theorem jumpTo_lcd (target : Word) (cost : Nat) : (jumpTo target cost s).lcd = s.lcd := rfl
@[simp] theorem jumpTo_wram (target : Word) (cost : Nat) : (jumpTo target cost s).wram = s.wram := rfl
@[simp] theorem jumpTo_bootDisabled (target : Word) (cost : Nat) : (jumpTo target cost s).bootDisabled = s.bootDisabled := rfl
@[simp] theorem jumpTo_bootRom (target : Word) (cost : Nat) : (jumpTo target cost s).bootRom = s.bootRom := rfl
@[simp] theorem jumpTo_cart (target : Word) (cost : Nat) : (jumpTo target cost s).cart = s.cart := rfl
@[simp] theorem jumpTo_cycles (target : Word) (cost : Nat) : (jumpTo target cost s).cycles = s.cycles := rfl
@[simp] theorem jumpTo_params (target : Word) (cost : Nat) : (jumpTo target cost s).params = s.params := rfl

/-! ## advance -/

@[simp] theorem advance_regs (len : Word) (cost : Nat) : (advance len cost s).regs = s.regs := rfl
@[simp] theorem advance_pc (len : Word) (cost : Nat) : (advance len cost s).pc = s.pc + len := rfl
@[simp] theorem advance_sp (len : Word) (cost : Nat) : (advance len cost s).sp = s.sp := rfl
@[simp] theorem advance_ime (len : Word) (cost : Nat) : (advance len cost s).ime = s.ime := rfl
@[simp] theorem advance_ie (len : Word) (cost : Nat) : (advance len cost s).ie = s.ie := rfl
@[simp] theorem advance_iflag (len : Word) (cost : Nat) : (advance len cost s).iflag = s.iflag := rfl
@[simp] theorem advance_nextCycle (len : Word) (cost : Nat) : (advance len cost s).nextCycle = .cycle (s.cycles + cost) := rfl
@[simp] theorem advance_imePending (len : Word) (cost : Nat) : (advance len cost s).imePending = s.imePending := rfl
@[simp] theorem advance_haltBugPending (len : Word) (cost : Nat) : (advance len cost s).haltBugPending = s.haltBugPending := rfl
@[simp] theorem advance_fault (len : Word) (cost : Nat) : (advance len cost s).fault = s.fault := rfl
@[simp] theorem advance_hram (len : Word) (cost : Nat) : (advance len cost s).hram = s.hram := rfl
@[simp] theorem advance_timer (len : Word) (cost : Nat) : (advance len cost s).timer = s.timer := rfl
@[simp] theorem advance_lcd (len : Word) (cost : Nat) : (advance len cost s).lcd = s.lcd := rfl
@[simp] theorem advance_wram (len : Word) (cost : Nat) : (advance len cost s).wram = s.wram := rfl
@[simp] theorem advance_bootDisabled (len : Word) (cost : Nat) : (advance len cost s).bootDisabled = s.bootDisabled := rfl
@[simp] theorem advance_bootRom (len : Word) (cost : Nat) : (advance len cost s).bootRom = s.bootRom := rfl
@[simp] theorem advance_cart (len : Word) (cost : Nat) : (advance len cost s).cart = s.cart := rfl
@[simp] theorem advance_cycles (len : Word) (cost : Nat) : (advance len cost s).cycles = s.cycles := rfl
@[simp] theorem advance_params (len : Word) (cost : Nat) : (advance len cost s).params = s.params := rfl

/-! ## raiseFault -/

@[simp] theorem raiseFault_regs (x : Fault) : (raiseFault x s).regs = s.regs := rfl
@[simp] theorem raiseFault_pc (x : Fault) : (raiseFault x s).pc = s.pc := rfl
@[simp] theorem raiseFault_sp (x : Fault) : (raiseFault x s).sp = s.sp := rfl
@[simp] theorem raiseFault_ime (x : Fault) : (raiseFault x s).ime = s.ime := rfl
@[simp] theorem raiseFault_ie (x : Fault) : (raiseFault x s).ie = s.ie := rfl
@[simp] theorem raiseFault_iflag (x : Fault) : (raiseFault x s).iflag = s.iflag := rfl
@[simp] theorem raiseFault_nextCycle (x : Fault) : (raiseFault x s).nextCycle = s.nextCycle := rfl
@[simp] theorem raiseFault_imePending (x : Fault) : (raiseFault x s).imePending = s.imePending := rfl
@[simp] theorem raiseFault_haltBugPending (x : Fault) : (raiseFault x s).haltBugPending = s.haltBugPending := rfl
@[simp] theorem raiseFault_fault (x : Fault) : (raiseFault x s).fault = some x := rfl
@[simp] theorem raiseFault_hram (x : Fault) : (raiseFault x s).hram = s.hram := rfl
@[simp] theorem raiseFault_timer (x : Fault) : (raiseFault x s).timer = s.timer := rfl
@[simp] theorem raiseFault_lcd (x : Fault) : (raiseFault x s).lcd = s.lcd := rfl
@[simp] theorem raiseFault_wram (x : Fault) : (raiseFault x s).wram = s.wram := rfl
@[simp] theorem raiseFault_bootDisabled (x : Fault) : (raiseFault x s).bootDisabled = s.bootDisabled := rfl
@[simp] theorem raiseFault_bootRom (x : Fault) : (raiseFault x s).bootRom = s.bootRom := rfl
@[simp] theorem raiseFault_cart (x : Fault) : (raiseFault x s).cart = s.cart := rfl
@[simp] theorem raiseFault_cycles (x : Fault) : (raiseFault x s).cycles = s.cycles := rfl
@[simp] theorem raiseFault_params (x : Fault) : (raiseFault x s).params = s.params := rfl

/-! ## returnFromIrq -/

@[simp] theorem returnFromIrq_regs : (returnFromIrq s).regs = s.regs := rfl
@[simp] theorem returnFromIrq_pc : (returnFromIrq s).pc = popValue s := rfl
@[simp] theorem returnFromIrq_sp : (returnFromIrq s).sp = s.sp + 2 := rfl
@[simp] theorem returnFromIrq_ime : (returnFromIrq s).ime = true := rfl
@[simp] theorem returnFromIrq_ie : (returnFromIrq s).ie = s.ie := rfl
@[simp] theorem returnFromIrq_iflag : (returnFromIrq s).iflag = s.iflag := rfl
@[simp] theorem returnFromIrq_nextCycle : (returnFromIrq s).nextCycle = s.nextCycle := rfl
@[simp] theorem returnFromIrq_imePending : (returnFromIrq s).imePending = false := rfl
@[simp] theorem returnFromIrq_haltBugPending : (returnFromIrq s).haltBugPending = s.haltBugPending := rfl
@[simp] theorem returnFromIrq_fault : (returnFromIrq s).fault = s.fault := rfl
@[simp] theorem returnFromIrq_hram : (returnFromIrq s).hram = s.hram := rfl
@[simp] theorem returnFromIrq_timer : (returnFromIrq s).timer = s.timer := rfl
@[simp] theorem returnFromIrq_lcd : (returnFromIrq s).lcd = s.lcd := rfl
@[simp] theorem returnFromIrq_wram : (returnFromIrq s).wram = s.wram := rfl
@[simp] theorem returnFromIrq_bootDisabled : (returnFromIrq s).bootDisabled = s.bootDisabled := rfl
@[simp] theorem returnFromIrq_bootRom : (returnFromIrq s).bootRom = s.bootRom := rfl
@[simp] theorem returnFromIrq_cart : (returnFromIrq s).cart = s.cart := rfl
@[simp] theorem returnFromIrq_cycles : (returnFromIrq s).cycles = s.cycles := rfl
@[simp] theorem returnFromIrq_params : (returnFromIrq s).params = s.params := rfl

/-! ## request -/

@[simp] theorem request_regs (i : Nat) : (request i s).regs = s.regs := rfl
@[simp] theorem request_pc (i : Nat) : (request i s).pc = s.pc := rfl
@[simp] theorem request_sp (i : Nat) : (request i s).sp = s.sp := rfl
@[simp] theorem request_ime (i : Nat) : (request i s).ime = s.ime := rfl
@[simp] theorem request_ie (i : Nat) : (request i s).ie = s.ie := rfl
@[simp] theorem request_iflag (i : Nat) : (request i s).iflag = setBit s.iflag i true := rfl
@[simp] theorem request_nextCycle (i : Nat) : (request i s).nextCycle = s.nextCycle := rfl
@[simp] theorem request_imePending (i : Nat) : (request i s).imePending = s.imePending := rfl
@[simp] theorem request_haltBugPending (i : Nat) : (request i s).haltBugPending = s.haltBugPending := rfl
@[simp] theorem request_fault (i : Nat) : (request i s).fault = s.fault := rfl
@[simp] theorem request_hram (i : Nat) : (request i s).hram = s.hram := rfl
@[simp] theorem request_timer (i : Nat) : (request i s).timer = s.timer := rfl
@[simp] theorem request_lcd (i : Nat) : (request i s).lcd = s.lcd := rfl
@[simp] theorem request_wram (i : Nat) : (request i s).wram = s.wram := rfl
@[simp] theorem request_bootDisabled (i : Nat) : (request i s).bootDisabled = s.bootDisabled := rfl
@[simp] theorem request_bootRom (i : Nat) : (request i s).bootRom = s.bootRom := rfl
@[simp] theorem request_cart (i : Nat) : (request i s).cart = s.cart := rfl
@[simp] theorem request_cycles (i : Nat) : (request i s).cycles = s.cycles := rfl
@[simp] theorem request_params (i : Nat) : (request i s).params = s.params := rfl

/-! ## setLcdNext -/

@[simp] theorem setLcdNext_regs (n : NextCycle) : (setLcdNext n s).regs = s.regs := rfl
@[simp] theorem setLcdNext_pc (n : NextCycle) : (setLcdNext n s).pc = s.pc := rfl
@[simp] theorem setLcdNext_sp (n : NextCycle) : (setLcdNext n s).sp = s.sp := rfl
@[simp] theorem setLcdNext_ime (n : NextCycle) : (setLcdNext n s).ime = s.ime := rfl
@[simp] theorem setLcdNext_ie (n : NextCycle) : (setLcdNext n s).ie = s.ie := rfl
@[simp] theorem setLcdNext_iflag (n : NextCycle) : (setLcdNext n s).iflag = s.iflag := rfl
@[simp] theorem setLcdNext_nextCycle (n : NextCycle) : (setLcdNext n s).nextCycle = s.nextCycle := rfl
@[simp] theorem setLcdNext_imePending (n : NextCycle) : (setLcdNext n s).imePending = s.imePending := rfl
@[simp] theorem setLcdNext_haltBugPending (n : NextCycle) : (setLcdNext n s).haltBugPending = s.haltBugPending := rfl
@[simp] theorem setLcdNext_fault (n : NextCycle) : (setLcdNext n s).fault = s.fault := rfl
@[simp] theorem setLcdNext_hram (n : NextCycle) : (setLcdNext n s).hram = s.hram := rfl
@[simp] theorem setLcdNext_timer (n : NextCycle) : (setLcdNext n s).timer = s.timer := rfl
@[simp] theorem setLcdNext_lcd (n : NextCycle) : (setLcdNext n s).lcd = { s.lcd with lcdNext := n } := rfl
@[simp] theorem setLcdNext_wram (n : NextCycle) : (setLcdNext n s).wram = s.wram := rfl
@[simp] theorem setLcdNext_bootDisabled (n : NextCycle) : (setLcdNext n s).bootDisabled = s.bootDisabled := rfl
@[simp] theorem setLcdNext_bootRom (n : NextCycle) : (setLcdNext n s).bootRom = s.bootRom := rfl
@[simp] theorem setLcdNext_cart (n : NextCycle) : (setLcdNext n s).cart = s.cart := rfl
@[simp] theorem setLcdNext_cycles (n : NextCycle) : (setLcdNext n s).cycles = s.cycles := rfl
@[simp] theorem setLcdNext_params (n : NextCycle) : (setLcdNext n s).params = s.params := rfl

/-! ## endCycle -/

@[simp] theorem endCycle_regs : (endCycle s).regs = s.regs := rfl
@[simp] theorem endCycle_pc : (endCycle s).pc = s.pc := rfl
@[simp] theorem endCycle_sp : (endCycle s).sp = s.sp := rfl
@[simp] theorem endCycle_ime : (endCycle s).ime = s.ime := rfl
@[simp] theorem endCycle_ie : (endCycle s).ie = s.ie := rfl
@[simp] theorem endCycle_iflag : (endCycle s).iflag = s.iflag := rfl
@[simp] theorem endCycle_nextCycle : (endCycle s).nextCycle = s.nextCycle := rfl
@[simp] theorem endCycle_imePending : (endCycle s).imePending = s.imePending := rfl
@[simp] theorem endCycle_haltBugPending : (endCycle s).haltBugPending = s.haltBugPending := rfl
@[simp] theorem endCycle_fault : (endCycle s).fault = s.fault := rfl
@[simp] theorem endCycle_hram : (endCycle s).hram = s.hram := rfl
@[simp] theorem endCycle_timer : (endCycle s).timer = s.timer := rfl
@[simp] theorem endCycle_lcd : (endCycle s).lcd = s.lcd := rfl
@[simp] theorem endCycle_wram : (endCycle s).wram = s.wram := rfl
@[simp] theorem endCycle_bootDisabled : (endCycle s).bootDisabled = s.bootDisabled := rfl
@[simp] theorem endCycle_bootRom : (endCycle s).bootRom = s.bootRom := rfl
@[simp] theorem endCycle_cart : (endCycle s).cart = s.cart := rfl
@[simp] theorem endCycle_cycles : (endCycle s).cycles = s.cycles + 1 := rfl
@[simp] theorem endCycle_params : (endCycle s).params = s.params := rfl

/-! ## writeRp -/

@[simp] theorem writeRp_pc (rp : Rp) (v : Word) : (writeRp rp v s).pc = s.pc := by cases rp <;> rfl
@[simp] theorem writeRp_sp (rp : Rp) (v : Word) : (writeRp rp v s).sp = if rp = .sp then v else s.sp := by
  cases rp <;> rfl
@[simp] theorem writeRp_ime (rp : Rp) (v : Word) : (writeRp rp v s).ime = s.ime := by cases rp <;> rfl
@[simp] theorem writeRp_ie (rp : Rp) (v : Word) : (writeRp rp v s).ie = s.ie := by cases rp <;> rfl
@[simp] theorem writeRp_iflag (rp : Rp) (v : Word) : (writeRp rp v s).iflag = s.iflag := by cases rp <;> rfl
@[simp] theorem writeRp_nextCycle (rp : Rp) (v : Word) : (writeRp rp v s).nextCycle = s.nextCycle := by cases rp <;> rfl
@[simp] theorem writeRp_imePending (rp : Rp) (v : Word) : (writeRp rp v s).imePending = s.imePending := by cases rp <;> rfl
@[simp] theorem writeRp_haltBugPending (rp : Rp) (v : Word) : (writeRp rp v s).haltBugPending = s.haltBugPending := by cases rp <;> rfl
@[simp] theorem writeRp_fault (rp : Rp) (v : Word) : (writeRp rp v s).fault = s.fault := by cases rp <;> rfl
@[simp] theorem writeRp_hram (rp : Rp) (v : Word) : (writeRp rp v s).hram = s.hram := by cases rp <;> rfl
@[simp] theorem writeRp_timer (rp : Rp) (v : Word) : (writeRp rp v s).timer = s.timer := by cases rp <;> rfl
@[simp] theorem writeRp_lcd (rp : Rp) (v : Word) : (writeRp rp v s).lcd = s.lcd := by cases rp <;> rfl
@[simp] theorem writeRp_wram (rp : Rp) (v : Word) : (writeRp rp v s).wram = s.wram := by cases rp <;> rfl
@[simp] theorem writeRp_bootDisabled (rp : Rp) (v : Word) : (writeRp rp v s).bootDisabled = s.bootDisabled := by cases rp <;> rfl
@[simp] theorem writeRp_bootRom (rp : Rp) (v : Word) : (writeRp rp v s).bootRom = s.bootRom := by cases rp <;> rfl
@[simp] theorem writeRp_cart (rp : Rp) (v : Word) : (writeRp rp v s).cart = s.cart := by cases rp <;> rfl
@[simp] theorem writeRp_cycles (rp : Rp) (v : Word) : (writeRp rp v s).cycles = s.cycles := by cases rp <;> rfl
@[simp] theorem writeRp_params (rp : Rp) (v : Word) : (writeRp rp v s).params = s.params := by cases rp <;> rfl

/-! ## writeRp2 -/

@[simp] theorem writeRp2_pc (rp : Rp2) (v : Word) : (writeRp2 rp v s).pc = s.pc := by cases rp <;> rfl
@[simp] theorem writeRp2_sp (rp : Rp2) (v : Word) : (writeRp2 rp v s).sp = s.sp := by cases rp <;> rfl
@[simp] theorem writeRp2_ime (rp : Rp2) (v : Word) : (writeRp2 rp v s).ime = s.ime := by cases rp <;> rfl
@[simp] theorem writeRp2_ie (rp : Rp2) (v : Word) : (writeRp2 rp v s).ie = s.ie := by cases rp <;> rfl
@[simp] theorem writeRp2_iflag (rp : Rp2) (v : Word) : (writeRp2 rp v s).iflag = s.iflag := by cases rp <;> rfl
@[simp] theorem writeRp2_nextCycle (rp : Rp2) (v : Word) : (writeRp2 rp v s).nextCycle = s.nextCycle := by cases rp <;> rfl
@[simp] theorem writeRp2_imePending (rp : Rp2) (v : Word) : (writeRp2 rp v s).imePending = s.imePending := by cases rp <;> rfl
@[simp] theorem writeRp2_haltBugPending (rp : Rp2) (v : Word) : (writeRp2 rp v s).haltBugPending = s.haltBugPending := by cases rp <;> rfl
@[simp] theorem writeRp2_fault (rp : Rp2) (v : Word) : (writeRp2 rp v s).fault = s.fault := by cases rp <;> rfl
@[simp] theorem writeRp2_hram (rp : Rp2) (v : Word) : (writeRp2 rp v s).hram = s.hram := by cases rp <;> rfl
@[simp] theorem writeRp2_timer (rp : Rp2) (v : Word) : (writeRp2 rp v s).timer = s.timer := by cases rp <;> rfl
@[simp] theorem writeRp2_lcd (rp : Rp2) (v : Word) : (writeRp2 rp v s).lcd = s.lcd := by cases rp <;> rfl
@[simp] theorem writeRp2_wram (rp : Rp2) (v : Word) : (writeRp2 rp v s).wram = s.wram := by cases rp <;> rfl
@[simp] theorem writeRp2_bootDisabled (rp : Rp2) (v : Word) : (writeRp2 rp v s).bootDisabled = s.bootDisabled := by cases rp <;> rfl
@[simp] theorem writeRp2_bootRom (rp : Rp2) (v : Word) : (writeRp2 rp v s).bootRom = s.bootRom := by cases rp <;> rfl
@[simp] theorem writeRp2_cart (rp : Rp2) (v : Word) : (writeRp2 rp v s).cart = s.cart := by cases rp <;> rfl
@[simp] theorem writeRp2_cycles (rp : Rp2) (v : Word) : (writeRp2 rp v s).cycles = s.cycles := by cases rp <;> rfl
@[simp] theorem writeRp2_params (rp : Rp2) (v : Word) : (writeRp2 rp v s).params = s.params := by cases rp <;> rfl

end Sys2Proof.Machine
end

