-- ==== Sys2Proof/Laws/Ops.lean ====
section
/-! SUPPORT. The laws of the register file, the stack and interrupt entry. -/

namespace Sys2Proof.Machine

/-! ## Bytes and words -/

theorem toNat_word (h l : Byte) : (word h l).toNat = h.toNat * 256 + l.toNat := by
  have := l.isLt
  simp only [word, BitVec.toNat_append]
  rw [← Nat.shiftLeft_add_eq_or_of_lt (by omega), Nat.shiftLeft_eq]

theorem toNat_hiByte (v : Word) : (hiByte v).toNat = v.toNat / 256 := by
  have := v.isLt
  simp [hiByte, BitVec.extractLsb'_toNat, Nat.shiftRight_eq_div_pow]
  omega

theorem toNat_loByte (v : Word) : (loByte v).toNat = v.toNat % 256 := by
  simp [loByte, BitVec.extractLsb'_toNat]

@[simp] theorem hiByte_word (h l : Byte) : hiByte (word h l) = h := by
  have := l.isLt
  apply BitVec.eq_of_toNat_eq
  rw [toNat_hiByte, toNat_word]; omega

@[simp] theorem loByte_word (h l : Byte) : loByte (word h l) = l := by
  have := l.isLt
  apply BitVec.eq_of_toNat_eq
  rw [toNat_loByte, toNat_word]; omega

@[simp] theorem word_hiByte_loByte (v : Word) : word (hiByte v) (loByte v) = v := by
  apply BitVec.eq_of_toNat_eq
  rw [toNat_word, toNat_hiByte, toNat_loByte]; omega

/-! ## Register F -/

@[simp] theorem flagsOfByte_flagsByte (f : Flags) : flagsOfByte (flagsByte f) = f := by
  obtain ⟨z, n, h, c⟩ := f
  cases z <;> cases n <;> cases h <;> cases c <;> rfl

/-- The low nibble of F reads 0, and its high nibble is the four flags. -/
theorem toNat_flagsByte (f : Flags) :
    (flagsByte f).toNat = f.z.toNat * 128 + f.n.toNat * 64 + f.h.toNat * 32 + f.c.toNat * 16 := by
  obtain ⟨z, n, h, c⟩ := f
  cases z <;> cases n <;> cases h <;> cases c <;> rfl

/-- A byte written to F reads back with its low nibble cleared. -/
theorem flagsByte_flagsOfByte (v : Byte) : flagsByte (flagsOfByte v) = v &&& 0xF0 := by
  revert v; decide

/-! ## The register file -/

theorem regsGet_regsSet_same (r : RegId) (v : Byte) (g : Regs) :
    regsGet r (regsSet r v g) = if r = .f then v &&& 0xF0 else v := by
  cases r <;> simp [regsGet, regsSet, flagsByte_flagsOfByte]

theorem regsGet_regsSet_other {r r' : RegId} (h : r' ≠ r) (v : Byte) (g : Regs) :
    regsGet r' (regsSet r v g) = regsGet r' g := by
  cases r <;> cases r' <;> first | rfl | exact absurd rfl h

theorem regOfR8_ne_f (r : R8) : regOfR8 r ≠ .f := by cases r <;> simp [regOfR8]

/-- A register field reads back what was written through it: it never names F. -/
@[simp] theorem readR8_writeR8 (r : R8) (v : Byte) (s : State) : readR8 r (writeR8 r v s) = v := by
  simp [readR8, readReg, writeR8, writeReg, regsGet_regsSet_same, regOfR8_ne_f]

@[simp] theorem regsSet_f_eq (r : R8) (v : Byte) (g : Regs) : (regsSet (regOfR8 r) v g).f = g.f := by
  cases r <;> rfl

/-! ## Pairs -/

@[simp] theorem readBc_writeBc (v : Word) (s : State) : readBc (writeBc v s) = v := by simp [readBc]
@[simp] theorem readDe_writeDe (v : Word) (s : State) : readDe (writeDe v s) = v := by simp [readDe]
@[simp] theorem readHl_writeHl (v : Word) (s : State) : readHl (writeHl v s) = v := by simp [readHl]

@[simp] theorem readRp_writeRp (rp : Rp) (v : Word) (s : State) : readRp rp (writeRp rp v s) = v := by
  cases rp <;> simp [readRp, writeRp]

/-- AF reads back with the low nibble of F cleared (40_loads.md R431). -/
theorem readAf_writeAf (v : Word) (s : State) : readAf (writeAf v s) = word (hiByte v) (loByte v &&& 0xF0) := by
  simp [readAf, flagsByte_flagsOfByte]

/-! ## The end of an instruction: what reads do not see -/

@[simp] theorem busRead_jumpTo (a t : Word) (c : Nat) (s : State) : busRead a (jumpTo t c s) = busRead a s := rfl
@[simp] theorem busRead_advance (a l : Word) (c : Nat) (s : State) : busRead a (advance l c s) = busRead a s := rfl
@[simp] theorem busRead_writeReg (a : Word) (r : RegId) (v : Byte) (s : State) :
    busRead a (writeReg r v s) = busRead a s := rfl
@[simp] theorem busRead_writeR8 (a : Word) (r : R8) (v : Byte) (s : State) : busRead a (writeR8 r v s) = busRead a s :=
  rfl
@[simp] theorem busRead_writeFlags (a : Word) (f : Flags) (s : State) : busRead a (writeFlags f s) = busRead a s := rfl
@[simp] theorem busRead_writeBc (a v : Word) (s : State) : busRead a (writeBc v s) = busRead a s := rfl
@[simp] theorem busRead_writeDe (a v : Word) (s : State) : busRead a (writeDe v s) = busRead a s := rfl
@[simp] theorem busRead_writeHl (a v : Word) (s : State) : busRead a (writeHl v s) = busRead a s := rfl
@[simp] theorem busRead_writeAf (a v : Word) (s : State) : busRead a (writeAf v s) = busRead a s := rfl
@[simp] theorem busRead_writeRp (a : Word) (rp : Rp) (v : Word) (s : State) :
    busRead a (writeRp rp v s) = busRead a s := by cases rp <;> rfl
@[simp] theorem busRead_writeRp2 (a : Word) (rp : Rp2) (v : Word) (s : State) :
    busRead a (writeRp2 rp v s) = busRead a s := by cases rp <;> rfl
@[simp] theorem busRead_popSp (a : Word) (s : State) : busRead a (popSp s) = busRead a s := rfl
@[simp] theorem busRead_raiseFault (a : Word) (f : Fault) (s : State) : busRead a (raiseFault f s) = busRead a s := rfl
@[simp] theorem busRead_returnFromIrq (a : Word) (s : State) : busRead a (returnFromIrq s) = busRead a s := rfl

/-! ## Memory operands -/

@[simp] theorem readInd_eq (s : State) : readInd s = busRead (readHl s) s := rfl
@[simp] theorem writeInd_eq (v : Byte) (s : State) : writeInd v s = busWrite (readHl s) v s := rfl
@[simp] theorem busWrite16_eq (a v : Word) (s : State) :
    busWrite16 a v s = busWrite (a + 1) (hiByte v) (busWrite a (loByte v) s) := rfl

theorem toNat_highPage (a8 : Byte) : (highPage a8).toNat = 0xFF00 + a8.toNat := by
  have := a8.isLt
  simp [highPage, BitVec.toNat_add]; omega

/-- A sign-extended byte, as the integer it stands for. -/
theorem toInt_sext16 (e : Byte) : (sext16 e).toInt = e.toInt := by
  simp [sext16, BitVec.toInt_signExtend_of_le]

/-! ## The stack -/

/-- `push16` is two bus writes, the high byte first at the higher address, and sp two lower. -/
theorem push16_eq (v : Word) (s : State) :
    push16 v s = { busWrite (s.sp - 2) (loByte v) (busWrite (s.sp - 1) (hiByte v) s) with sp := s.sp - 2 } := by
  have hsp : s.sp - 1 - 1 = s.sp - 2 := by bv_omega
  have commute : ∀ (u : State) (w : Word) (a : Word) (b : Byte),
      busWrite a b { u with sp := w } = { busWrite a b u with sp := w } := by
    intro u w a b
    rw [busWrite_eq_withCpu a b u]
    exact busWrite_withCpu a b { u with sp := w } u
  unfold push16
  dsimp only
  rw [busWrite_sp, hsp, commute s]
  exact commute (busWrite (s.sp - 1) (hiByte v) s) (s.sp - 2) (s.sp - 2) (loByte v)

@[simp] theorem push16_sp (v : Word) (s : State) : (push16 v s).sp = s.sp - 2 := by rw [push16_eq]
@[simp] theorem push16_regs (v : Word) (s : State) : (push16 v s).regs = s.regs := by simp [push16_eq]
@[simp] theorem push16_pc (v : Word) (s : State) : (push16 v s).pc = s.pc := by simp [push16_eq]
@[simp] theorem push16_ime (v : Word) (s : State) : (push16 v s).ime = s.ime := by simp [push16_eq]
@[simp] theorem push16_imePending (v : Word) (s : State) : (push16 v s).imePending = s.imePending := by simp [push16_eq]
@[simp] theorem push16_haltBugPending (v : Word) (s : State) : (push16 v s).haltBugPending = s.haltBugPending := by
  simp [push16_eq]
@[simp] theorem push16_nextCycle (v : Word) (s : State) : (push16 v s).nextCycle = s.nextCycle := by simp [push16_eq]
@[simp] theorem push16_fault (v : Word) (s : State) : (push16 v s).fault = s.fault := by simp [push16_eq]
@[simp] theorem push16_cycles (v : Word) (s : State) : (push16 v s).cycles = s.cycles := by simp [push16_eq]
@[simp] theorem push16_params (v : Word) (s : State) : (push16 v s).params = s.params := by simp [push16_eq]

/-! ## Interrupt entry and return -/

/-- `service(i)`: IME and the open behaviours cleared, the request withdrawn, the return address pushed, and control at
the handler. -/
theorem serviceIrq_eq (i : Nat) (s : State) :
    serviceIrq i s =
      { push16 (if s.haltBugPending then s.pc - 1 else s.pc)
          { s with ime := false, imePending := false, iflag := setBit s.iflag i false, haltBugPending := false } with
        pc := irqVector i } := rfl

@[simp] theorem serviceIrq_ime (i : Nat) (s : State) : (serviceIrq i s).ime = false := by simp [serviceIrq_eq]
@[simp] theorem serviceIrq_imePending (i : Nat) (s : State) : (serviceIrq i s).imePending = false := by
  simp [serviceIrq_eq]
@[simp] theorem serviceIrq_haltBugPending (i : Nat) (s : State) : (serviceIrq i s).haltBugPending = false := by
  simp [serviceIrq_eq]
@[simp] theorem serviceIrq_pc (i : Nat) (s : State) : (serviceIrq i s).pc = irqVector i := rfl
@[simp] theorem serviceIrq_sp (i : Nat) (s : State) : (serviceIrq i s).sp = s.sp - 2 := by simp [serviceIrq_eq]
@[simp] theorem serviceIrq_regs (i : Nat) (s : State) : (serviceIrq i s).regs = s.regs := by simp [serviceIrq_eq]
@[simp] theorem serviceIrq_fault (i : Nat) (s : State) : (serviceIrq i s).fault = s.fault := by simp [serviceIrq_eq]
@[simp] theorem serviceIrq_cycles (i : Nat) (s : State) : (serviceIrq i s).cycles = s.cycles := by simp [serviceIrq_eq]
@[simp] theorem serviceIrq_params (i : Nat) (s : State) : (serviceIrq i s).params = s.params := by simp [serviceIrq_eq]

/-- The interrupt chosen is enabled and pending, and no lower-numbered one is. -/
theorem lowestIrq_spec (p : BitVec 5) (h : p ≠ 0) :
    lowestIrq p < 5 ∧ p.getLsbD (lowestIrq p) = true ∧ ∀ j, j < lowestIrq p → p.getLsbD j = false := by
  revert p; decide

end Sys2Proof.Machine
end

