-- ==== Sys2Proof/Laws/Alu.lean ====
section
/-! SUPPORT. What each ALU function computes, over the integers or bit by bit. -/

namespace Sys2Proof.Machine

/-! ## 8-bit sums and differences -/

/-- The sum and its four flags, exactly. -/
theorem add8_spec (a m : Byte) (cin : Bool) : AddsTo a m cin (add8 a m cin).1 (add8 a m cin).2 := by
  have := a.isLt; have := m.isLt
  refine ⟨by simp [add8], ?_, rfl, ?_, ?_⟩
  · simp only [add8, beq_iff_eq]
    rw [← BitVec.toNat_inj]; simp
  · simp only [add8, decide_eq_true_eq]; omega
  · simp only [add8, decide_eq_true_eq]; omega

/-- The difference and its four flags, exactly. -/
theorem sub8_spec (a m : Byte) (bin : Bool) : SubtractsTo a m bin (sub8 a m bin).1 (sub8 a m bin).2 := by
  have value : (((sub8 a m bin).1.toNat : Int)) = ((a.toNat : Int) - m.toNat - bin.toNat) % 256 := by
    simp only [sub8, BitVec.toNat_ofInt]; omega
  refine ⟨value, ?_, rfl, ?_, ?_⟩
  · rw [← value]
    simp only [sub8, beq_iff_eq]
    rw [← BitVec.toNat_inj]; simp
  · simp only [sub8, decide_eq_true_eq]
  · simp only [sub8, decide_eq_true_eq]

/-! ## 16-bit sums -/

/-- ADD HL's sum: H is the carry out of bit 11, C the carry out of bit 15. -/
theorem add16H_spec (a b : Word) :
    (add16H a b).1.toNat = (a.toNat + b.toNat) % 65536 ∧
    (add16H a b).2.1 = decide (4096 ≤ a.toNat % 4096 + b.toNat % 4096) ∧
    (add16H a b).2.2 = decide (65536 ≤ a.toNat + b.toNat) := by
  have := a.isLt; have := b.isLt
  simp only [add16H, add8, toNat_word, BitVec.toNat_ofNat, toNat_hiByte, toNat_loByte, Bool.toNat_false,
    decide_eq_decide]
  by_cases h : a.toNat % 256 + b.toNat % 256 + 0 > 255 <;>
    simp only [h, decide_true, decide_false, Bool.toNat_true, Bool.toNat_false] <;> omega

/-- The sum with SP: H is the carry out of bit 3, C the carry out of bit 7. -/
theorem add16L_spec (a b : Word) :
    (add16L a b).1.toNat = (a.toNat + b.toNat) % 65536 ∧
    (add16L a b).2.1 = decide (16 ≤ a.toNat % 16 + b.toNat % 16) ∧
    (add16L a b).2.2 = decide (256 ≤ a.toNat % 256 + b.toNat % 256) := by
  refine ⟨(add16H_spec a b).1, ?_, ?_⟩ <;>
    simp only [add16L, add8, toNat_loByte, Bool.toNat_false, decide_eq_decide] <;> omega

/-- A sign-extended byte as a 16-bit number. -/
theorem toNat_sext16 (e : Byte) : ((sext16 e).toNat : Int) = e.toInt % 65536 ∧ (sext16 e).toNat % 256 = e.toNat := by
  revert e; decide

/-! ## Rotates, shifts and swap: which bit each bit of the result is -/

theorem rlc8_bits (v : Byte) : BitsFrom (fun i => v.getLsbD ((i + 7) % 8)) (rlc8 v).1 := by
  unfold BitsFrom; revert v; decide

theorem rrc8_bits (v : Byte) : BitsFrom (fun i => v.getLsbD ((i + 1) % 8)) (rrc8 v).1 := by
  unfold BitsFrom; revert v; decide

theorem rl8_bits (v : Byte) (c : Bool) : BitsFrom (fun i => if i = 0 then c else v.getLsbD (i - 1)) (rl8 v c).1 := by
  unfold BitsFrom; revert v c; decide

theorem rr8_bits (v : Byte) (c : Bool) : BitsFrom (fun i => if i = 7 then c else v.getLsbD (i + 1)) (rr8 v c).1 := by
  unfold BitsFrom; revert v c; decide

theorem sla8_bits (v : Byte) : BitsFrom (fun i => decide (i ≠ 0) && v.getLsbD (i - 1)) (sla8 v).1 := by
  unfold BitsFrom; revert v; decide

theorem sra8_bits (v : Byte) : BitsFrom (fun i => if i = 7 then v.getLsbD 7 else v.getLsbD (i + 1)) (sra8 v).1 := by
  unfold BitsFrom; revert v; decide

theorem swap8_bits (v : Byte) : BitsFrom (fun i => v.getLsbD ((i + 4) % 8)) (swap8 v).1 := by
  unfold BitsFrom; revert v; decide

theorem srl8_bits (v : Byte) : BitsFrom (fun i => decide (i ≠ 7) && v.getLsbD (i + 1)) (srl8 v).1 := by
  unfold BitsFrom; revert v; decide

/-- `setBit` writes one bit. -/
theorem setBit_getLsbD {size : Nat} (v : BitVec size) (i j : Nat) (b : Bool) (hi : i < size) (hj : j < size) :
    (setBit v i b).getLsbD j = if j = i then b else v.getLsbD j := by
  unfold setBit
  cases b
  · by_cases h : j = i
    · subst h; simp [hj]
    · simp [h, hj]
  · by_cases h : j = i
    · subst h; simp [hj]
    · simp [h, hj]

theorem setBit_bits (v : Byte) (b : BitVec 3) (x : Bool) :
    BitsFrom (fun i => if i = b.toNat then x else v.getLsbD i) (setBit v b.toNat x) := by
  intro i hi
  exact setBit_getLsbD v b.toNat i x (by have := b.isLt; omega) hi

end Sys2Proof.Machine
end

