-- ==== Sys2Proof/Laws/Frames.lean ====
section
/-! SUPPORT. Lemmas for the terms of Sys2Proof/Safety.lean that say what an instruction leaves unchanged: each shared
update seen from a register read, and the ways to show that two states have the same devices. -/

namespace Sys2Proof.Machine

/-! ## Register reads across the shared updates -/

section
variable (r : RegId) (s : State)

@[simp] theorem readReg_jumpTo (t : Word) (c : Nat) : readReg r (jumpTo t c s) = readReg r s := rfl
@[simp] theorem readReg_advance (l : Word) (c : Nat) : readReg r (advance l c s) = readReg r s := rfl
@[simp] theorem readReg_popSp : readReg r (popSp s) = readReg r s := rfl
@[simp] theorem readReg_raiseFault (f : Fault) : readReg r (raiseFault f s) = readReg r s := rfl
@[simp] theorem readReg_returnFromIrq : readReg r (returnFromIrq s) = readReg r s := rfl
@[simp] theorem readReg_busWrite (a : Word) (v : Byte) : readReg r (busWrite a v s) = readReg r s := by simp [readReg]
@[simp] theorem readReg_push16 (v : Word) : readReg r (push16 v s) = readReg r s := by simp [readReg]
@[simp] theorem readReg_writeRp_sp (v : Word) : readReg r (writeRp .sp v s) = readReg r s := rfl

variable {r}

theorem readReg_writeR8_other {r' : R8} (h : r ≠ regOfR8 r') (v : Byte) : readReg r (writeR8 r' v s) = readReg r s :=
  regsGet_regsSet_other h v s.regs

theorem readReg_writeA_other (h : r ≠ .a) (v : Byte) : readReg r (writeR8 .a v s) = readReg r s :=
  regsGet_regsSet_other h v s.regs

theorem readReg_writeFlags_other (h : r ≠ .f) (f : Flags) : readReg r (writeFlags f s) = readReg r s := by
  cases r <;> first | rfl | exact absurd rfl h

theorem readReg_writeBc_other (hb : r ≠ .b) (hc : r ≠ .c) (v : Word) : readReg r (writeBc v s) = readReg r s := by
  cases r <;> first | rfl | contradiction

theorem readReg_writeDe_other (hd : r ≠ .d) (he : r ≠ .e) (v : Word) : readReg r (writeDe v s) = readReg r s := by
  cases r <;> first | rfl | contradiction

theorem readReg_writeHl_other (hh : r ≠ .h) (hl : r ≠ .l) (v : Word) : readReg r (writeHl v s) = readReg r s := by
  cases r <;> first | rfl | contradiction

theorem readReg_writeAf_other (ha : r ≠ .a) (hf : r ≠ .f) (v : Word) : readReg r (writeAf v s) = readReg r s := by
  cases r <;> first | rfl | contradiction

end

@[simp] theorem readR8_advance (r : R8) (l : Word) (c : Nat) (s : State) : readR8 r (advance l c s) = readR8 r s := rfl
@[simp] theorem readR8_writeFlags (r : R8) (f : Flags) (s : State) : readR8 r (writeFlags f s) = readR8 r s :=
  readReg_writeFlags_other s (regOfR8_ne_f r) f
@[simp] theorem readRp_advance (rp : Rp) (l : Word) (c : Nat) (s : State) :
    readRp rp (advance l c s) = readRp rp s := by cases rp <;> rfl

/-! ## The same devices -/

/-- Two states with the same device state have the same devices: every address reads the same. -/
theorem SameDevices.of_fields {s t : State} (ie : t.ie = s.ie) (iflag : t.iflag = s.iflag) (hram : t.hram = s.hram)
    (timer : t.timer = s.timer) (lcd : t.lcd = s.lcd) (wram : t.wram = s.wram) (boot : t.bootDisabled = s.bootDisabled)
    (rom : t.bootRom = s.bootRom) (cart : t.cart = s.cart) (cycles : t.cycles = s.cycles)
    (params : t.params = s.params) : SameDevices s t := by
  have h : t = withCpu t s := by
    obtain ⟨⟩ := t; simp only at *; subst_vars; rfl
  exact ⟨fun a => by rw [h]; rfl, ie, iflag, hram, timer, lcd, wram, boot, rom, cart, cycles, params⟩

@[simp] theorem SameDevices.refl (s : State) : SameDevices s s :=
  ⟨fun _ => rfl, rfl, rfl, rfl, rfl, rfl, rfl, rfl, rfl, rfl, rfl, rfl⟩

theorem SameDevices.trans {s t u : State} (h : SameDevices s t) (h' : SameDevices t u) : SameDevices s u :=
  ⟨fun a => (h'.reads a).trans (h.reads a), h'.ie.trans h.ie, h'.iflag.trans h.iflag, h'.hram.trans h.hram,
    h'.timer.trans h.timer, h'.lcd.trans h.lcd, h'.wram.trans h.wram, h'.bootDisabled.trans h.bootDisabled,
    h'.bootRom.trans h.bootRom, h'.cart.trans h.cart, h'.cycles.trans h.cycles, h'.params.trans h.params⟩

theorem sameDevices_writeR8 (r : R8) (v : Byte) (s : State) : SameDevices s (writeR8 r v s) :=
  .of_fields rfl rfl rfl rfl rfl rfl rfl rfl rfl rfl rfl

theorem sameDevices_writeFlags (f : Flags) (s : State) : SameDevices s (writeFlags f s) :=
  .of_fields rfl rfl rfl rfl rfl rfl rfl rfl rfl rfl rfl

theorem sameDevices_writeRp (rp : Rp) (v : Word) (s : State) : SameDevices s (writeRp rp v s) := by
  cases rp <;> exact .of_fields rfl rfl rfl rfl rfl rfl rfl rfl rfl rfl rfl

theorem sameDevices_writeRp2 (rp : Rp2) (v : Word) (s : State) : SameDevices s (writeRp2 rp v s) := by
  cases rp <;> exact .of_fields rfl rfl rfl rfl rfl rfl rfl rfl rfl rfl rfl

theorem sameDevices_jumpTo (t : Word) (c : Nat) (s : State) : SameDevices s (jumpTo t c s) :=
  .of_fields rfl rfl rfl rfl rfl rfl rfl rfl rfl rfl rfl

theorem sameDevices_advance (l : Word) (c : Nat) (s : State) : SameDevices s (advance l c s) :=
  .of_fields rfl rfl rfl rfl rfl rfl rfl rfl rfl rfl rfl

/-- A push leaves the devices of its two bus writes. -/
theorem sameDevices_push16 (v : Word) (s : State) :
    SameDevices (busWrite (s.sp - 2) (loByte v) (busWrite (s.sp - 1) (hiByte v) s)) (push16 v s) := by
  rw [push16_eq]
  exact .of_fields rfl rfl rfl rfl rfl rfl rfl rfl rfl rfl rfl

/-! ## Where an instruction ends -/

theorem endsAfter_of_advance {s t : State} {len cost : Nat} (hpc : t.pc = s.pc + BitVec.ofNat 16 len)
    (hnext : t.nextCycle = .cycle (s.cycles + cost)) : EndsAfter len cost s t :=
  ⟨by rw [hpc]; simp [BitVec.toNat_add], hnext⟩

/-- The target of a relative jump, over the integers. -/
theorem toNat_relTarget (e : Byte) (s : State) :
    ((relTarget e s).toNat : Int) = ((s.pc.toNat : Int) + 2 + e.toInt) % 65536 := by
  obtain ⟨h, -⟩ := toNat_sext16 e
  simp [relTarget, BitVec.toNat_add]
  omega

end Sys2Proof.Machine
end

