-- ==== Sys2Proof/Laws/Devices.lean ====
section
/-! SUPPORT. What one cycle's steps of the timer, the display and the DMA unit can change: the timer, the display, and IF. -/

namespace Sys2Proof.Machine

/-! ## Only the timer and IF; only the display and IF -/

theorem timerTick_frame (s : State) :
    timerTick s = { s with timer := (timerTick s).timer, iflag := (timerTick s).iflag } := by rw [timerTick_eq]

theorem timerUpdate_frame (n : Word) (tac : BitVec 3) (s : State) :
    timerUpdate n tac s = { s with timer := (timerUpdate n tac s).timer, iflag := (timerUpdate n tac s).iflag } := by
  rw [timerUpdate_eq]
  split
  · rw [timerTick_eq]
  · rfl

/-- The timer's step changes the timer and IF, and nothing else. -/
theorem timerStep_frame (s : State) :
    timerStep s = { s with timer := (timerStep s).timer, iflag := (timerStep s).iflag } := timerUpdate_frame _ _ _

theorem checkLyc_frame (s : State) :
    checkLyc s = { s with lcd := (checkLyc s).lcd, iflag := (checkLyc s).iflag } := by rw [checkLyc_eq]

theorem enterMode_frame (m : LcdMode) (s : State) :
    enterMode m s = { s with lcd := (enterMode m s).lcd, iflag := (enterMode m s).iflag } := by rw [enterMode_eq]

/-- `setLy` sets LY and LYC_EQ, and requests LCD_STAT when the match is enabled. -/
theorem setLy_eq (v : Byte) (s : State) :
    setLy v s = { s with lcd := { s.lcd with ly := v, lycEq := v == s.lcd.lyc },
                         iflag := if v == s.lcd.lyc && s.lcd.statEn.getLsbD 3 then setBit s.iflag 1 true
                                  else s.iflag } := by
  rw [setLy, checkLyc_eq]

/-- The display's state machine changes the display and IF, and nothing else. -/
theorem lcdStep_frame (s : State) : lcdStep s = { s with lcd := (lcdStep s).lcd, iflag := (lcdStep s).iflag } := by
  unfold lcdStep
  split
  · split
    · simp only [lcdStart, setLy_eq, enterMode_eq, setLcdNext]
    · split
      · split
        · simp only [lcdEndOamScan, enterMode_eq, setLcdNext]
        · simp only [lcdEndTransfer, enterMode_eq, setLcdNext]
        · unfold lcdEndHblank
          split <;> simp only [setLy_eq, enterMode_eq, setLcdNext, request]
        · unfold lcdEndVblankLine
          split <;> simp only [setLy_eq, enterMode_eq, setLcdNext]
      · rfl
  · rfl

/-- The display's state machine writes neither video RAM nor OAM, and leaves the DMA unit alone. -/
theorem lcdStep_stores (s : State) : (lcdStep s).lcd.vram = s.lcd.vram ∧ (lcdStep s).lcd.oam = s.lcd.oam ∧
    (lcdStep s).lcd.dmaIndex = s.lcd.dmaIndex ∧ (lcdStep s).lcd.dmaSrc = s.lcd.dmaSrc := by
  unfold lcdStep
  split
  · split
    · simp only [lcdStart, setLy_eq, enterMode_eq, setLcdNext, and_self]
    · split
      · split
        · simp only [lcdEndOamScan, enterMode_eq, setLcdNext, and_self]
        · simp only [lcdEndTransfer, enterMode_eq, setLcdNext, and_self]
        · unfold lcdEndHblank
          split <;> simp only [setLy_eq, enterMode_eq, setLcdNext, request, and_self]
        · unfold lcdEndVblankLine
          split <;> simp only [setLy_eq, enterMode_eq, setLcdNext, and_self]
      · exact ⟨rfl, rfl, rfl, rfl⟩
  · exact ⟨rfl, rfl, rfl, rfl⟩

/-- The DMA unit changes OAM and its own index, and nothing else. -/
theorem dmaStep_frame (s : State) :
    dmaStep s = { s with lcd := { s.lcd with oam := (dmaStep s).lcd.oam, dmaIndex := (dmaStep s).lcd.dmaIndex } } := by
  unfold dmaStep
  split <;> rfl

/-- The devices' steps change the timer, the display and IF, and nothing else. -/
theorem devicesStep_frame (s : State) :
    devicesStep s = { s with timer := (devicesStep s).timer, lcd := (devicesStep s).lcd,
                             iflag := (devicesStep s).iflag } := by
  unfold devicesStep displayStep
  rw [lcdStep_frame, dmaStep_frame, timerStep_frame]

section
variable (s : State)

@[simp] theorem devicesStep_regs : (devicesStep s).regs = s.regs := by rw [devicesStep_frame]
@[simp] theorem devicesStep_pc : (devicesStep s).pc = s.pc := by rw [devicesStep_frame]
@[simp] theorem devicesStep_sp : (devicesStep s).sp = s.sp := by rw [devicesStep_frame]
@[simp] theorem devicesStep_ime : (devicesStep s).ime = s.ime := by rw [devicesStep_frame]
@[simp] theorem devicesStep_ie : (devicesStep s).ie = s.ie := by rw [devicesStep_frame]
@[simp] theorem devicesStep_nextCycle : (devicesStep s).nextCycle = s.nextCycle := by rw [devicesStep_frame]
@[simp] theorem devicesStep_imePending : (devicesStep s).imePending = s.imePending := by rw [devicesStep_frame]
@[simp] theorem devicesStep_haltBugPending : (devicesStep s).haltBugPending = s.haltBugPending := by
  rw [devicesStep_frame]
@[simp] theorem devicesStep_fault : (devicesStep s).fault = s.fault := by rw [devicesStep_frame]
@[simp] theorem devicesStep_hram : (devicesStep s).hram = s.hram := by rw [devicesStep_frame]
@[simp] theorem devicesStep_wram : (devicesStep s).wram = s.wram := by rw [devicesStep_frame]
@[simp] theorem devicesStep_bootDisabled : (devicesStep s).bootDisabled = s.bootDisabled := by rw [devicesStep_frame]
@[simp] theorem devicesStep_bootRom : (devicesStep s).bootRom = s.bootRom := by rw [devicesStep_frame]
@[simp] theorem devicesStep_cart : (devicesStep s).cart = s.cart := by rw [devicesStep_frame]
@[simp] theorem devicesStep_cycles : (devicesStep s).cycles = s.cycles := by rw [devicesStep_frame]
@[simp] theorem devicesStep_params : (devicesStep s).params = s.params := by rw [devicesStep_frame]

end

/-- A wake-up makes the current cycle a fetch boundary, and changes nothing else. -/
theorem wake_frame (s : State) : wake s = { s with nextCycle := (wake s).nextCycle } := by
  unfold wake; split <;> rfl

/-- Where no wake-up makes a boundary, the CPU stays idle or halted as it was. -/
theorem wake_nextCycle_of_not_boundary (s : State) (h : atBoundary (wake s) = false) :
    (wake s).nextCycle = s.nextCycle := by
  unfold wake at h ⊢
  split
  · rename_i hc
    rw [if_pos hc] at h
    simp [atBoundary] at h
  · rfl

/-! ## A bus write and the ROMs, the latch and the cartridge's fixed parts -/

/-- No cartridge write changes the controller, the image or the size of the RAM. -/
theorem cartWrite_frame (a : Nat) (v : Byte) (c : Cart) :
    (cartWrite a v c).kind = c.kind ∧ (cartWrite a v c).romSize = c.romSize ∧ (cartWrite a v c).rom = c.rom ∧
    (cartWrite a v c).ramSize = c.ramSize := by
  unfold cartWrite
  split
  · exact ⟨rfl, rfl, rfl, rfl⟩
  · split_ifs <;> exact ⟨rfl, rfl, rfl, rfl⟩

theorem cpuDevWrite_frame (a : Word) (v : Byte) (s : State) :
    cpuDevWrite a v s = { s with iflag := (cpuDevWrite a v s).iflag, hram := (cpuDevWrite a v s).hram,
                                 ie := (cpuDevWrite a v s).ie } := by
  unfold cpuDevWrite; split_ifs <;> rfl

theorem muxWrite_frame (a : Word) (v : Byte) (s : State) :
    muxWrite a v s = { s with bootDisabled := (muxWrite a v s).bootDisabled, cart := (muxWrite a v s).cart } := by
  unfold muxWrite; dsimp only; split_ifs <;> rfl

theorem writeLcdc_frame (v : Byte) (s : State) :
    writeLcdc v s = { s with lcd := (writeLcdc v s).lcd, iflag := (writeLcdc v s).iflag } := by
  unfold writeLcdc
  dsimp only
  split
  · simp only [setLy_eq, setLcdNext]
  · rfl

theorem lcdWrite_frame (a : Word) (v : Byte) (s : State) :
    lcdWrite a v s = { s with lcd := (lcdWrite a v s).lcd, iflag := (lcdWrite a v s).iflag } := by
  have ite {c : Prop} [Decidable c] {x y : State} (hx : x = { s with lcd := x.lcd, iflag := x.iflag })
      (hy : y = { s with lcd := y.lcd, iflag := y.iflag }) :
      (if c then x else y) = { s with lcd := (if c then x else y).lcd, iflag := (if c then x else y).iflag } := by
    split
    · exact hx
    · exact hy
  unfold lcdWrite
  exact ite rfl (ite rfl (ite (writeLcdc_frame v s) (ite rfl (ite rfl (ite rfl
    (ite (checkLyc_frame { s with lcd := { s.lcd with lyc := v } })
      (ite rfl (ite rfl (ite rfl (ite rfl (ite rfl (ite rfl rfl))))))))))))

theorem wramViewWrite_frame (p q : Nat) (a : Word) (v : Byte) (s : State) :
    wramViewWrite p q a v s = { s with wram := (wramViewWrite p q a v s).wram } := by
  unfold wramViewWrite; split <;> rfl

theorem timerWrite_frame (a : Word) (v : Byte) (s : State) :
    timerWrite a v s = { s with timer := (timerWrite a v s).timer, iflag := (timerWrite a v s).iflag } := by
  unfold timerWrite
  split_ifs <;> first | rfl | exact timerUpdate_frame _ _ s

/-- What a bus write can change: nothing but the devices. The boot ROM and the parameters never change, the cartridge
keeps its image and its controller, and the boot ROM is never mapped again. -/
theorem busWrite_fixed (a : Word) (v : Byte) (s : State) :
    (busWrite a v s).bootRom = s.bootRom ∧ (busWrite a v s).params = s.params ∧
    (busWrite a v s).cart.kind = s.cart.kind ∧ (busWrite a v s).cart.romSize = s.cart.romSize ∧
    (busWrite a v s).cart.rom = s.cart.rom ∧ (busWrite a v s).cart.ramSize = s.cart.ramSize ∧
    (s.bootDisabled = true → (busWrite a v s).bootDisabled = true) := by
  have hmux : ∀ u : State, (muxWrite a v u).cart.kind = u.cart.kind ∧ (muxWrite a v u).cart.romSize = u.cart.romSize ∧
      (muxWrite a v u).cart.rom = u.cart.rom ∧ (muxWrite a v u).cart.ramSize = u.cart.ramSize ∧
      (u.bootDisabled = true → (muxWrite a v u).bootDisabled = true) := by
    intro u
    obtain ⟨h1, h2, h3, h4⟩ := cartWrite_frame a.toNat v u.cart
    unfold muxWrite
    dsimp only
    split_ifs <;> first | exact ⟨h1, h2, h3, h4, fun _ => rfl⟩ | exact ⟨h1, h2, h3, h4, id⟩ |
      exact ⟨rfl, rfl, rfl, rfl, fun _ => rfl⟩ | exact ⟨rfl, rfl, rfl, rfl, id⟩
  have keep (f : State → State) (hf : ∀ u, ∃ tm l i w, f u = { u with timer := tm, lcd := l, iflag := i, wram := w }) (u : State) :
      (f u).bootRom = u.bootRom ∧ (f u).params = u.params ∧ (f u).cart = u.cart ∧
      (f u).bootDisabled = u.bootDisabled := by
    obtain ⟨tm, l, i, w, h⟩ := hf u
    rw [h]; exact ⟨rfl, rfl, rfl, rfl⟩
  have h1 := keep (timerWrite a v) fun u => ⟨_, u.lcd, _, u.wram, timerWrite_frame a v u⟩
  have h2 := keep (wramViewWrite 0xE000 0xFE00 a v) fun u =>
    ⟨u.timer, u.lcd, u.iflag, _, wramViewWrite_frame 0xE000 0xFE00 a v u⟩
  have h3 := keep (wramViewWrite 0xC000 0xE000 a v) fun u =>
    ⟨u.timer, u.lcd, u.iflag, _, wramViewWrite_frame 0xC000 0xE000 a v u⟩
  have h4 := keep (lcdWrite a v) fun u => ⟨u.timer, _, _, u.wram, lcdWrite_frame a v u⟩
  have h5 : (cpuDevWrite a v s).cart = s.cart ∧ (cpuDevWrite a v s).bootRom = s.bootRom ∧
      (cpuDevWrite a v s).params = s.params ∧ (cpuDevWrite a v s).bootDisabled = s.bootDisabled := by
    rw [cpuDevWrite_frame]; exact ⟨rfl, rfl, rfl, rfl⟩
  have h6 : (muxWrite a v (cpuDevWrite a v s)).bootRom = (cpuDevWrite a v s).bootRom ∧
      (muxWrite a v (cpuDevWrite a v s)).params = (cpuDevWrite a v s).params := by
    rw [muxWrite_frame]; exact ⟨rfl, rfl⟩
  have h7 := hmux (cpuDevWrite a v s)
  unfold busWrite
  refine ⟨?_, ?_, ?_⟩
  · rw [(h1 _).1, (h2 _).1, (h3 _).1, (h4 _).1, h6.1, h5.2.1]
  · rw [(h1 _).2.1, (h2 _).2.1, (h3 _).2.1, (h4 _).2.1, h6.2, h5.2.2.1]
  · rw [(h1 _).2.2.1, (h2 _).2.2.1, (h3 _).2.2.1, (h4 _).2.2.1, (h1 _).2.2.2, (h2 _).2.2.2, (h3 _).2.2.2,
      (h4 _).2.2.2, ← h5.1, ← h5.2.2.2]
    exact h7

/-- The boot ROM's latch after a bus write: set by any write of 0xFF50, else as before. -/
theorem busWrite_bootDisabled (a : Word) (v : Byte) (s : State) :
    (busWrite a v s).bootDisabled = if a = 0xFF50 then true else s.bootDisabled := by
  have hmux (u : State) : (muxWrite a v u).bootDisabled = if a = 0xFF50 then true else u.bootDisabled := by
    unfold muxWrite; dsimp only; split_ifs <;> rfl
  unfold busWrite
  rw [timerWrite_frame, wramViewWrite_frame, wramViewWrite_frame, lcdWrite_frame]
  exact (hmux _).trans (by rw [cpuDevWrite_frame])

end Sys2Proof.Machine
end

