-- ==== Sys2Proof/Laws/Exec.lean ====
section
/-! SUPPORT. What any instruction can do to the devices and to the sequencing state, said once for all of them. -/

namespace Sys2Proof.Machine

/-- Bus writes in order. -/
def busWrites (ws : List (Word × Byte)) (s : State) : State := ws.foldl (fun u w => busWrite w.1 w.2 u) s

@[simp] theorem busWrites_nil (s : State) : busWrites [] s = s := rfl
@[simp] theorem busWrites_cons (w : Word × Byte) (ws : List (Word × Byte)) (s : State) :
    busWrites (w :: ws) s = busWrites ws (busWrite w.1 w.2 s) := rfl

/-- What is kept by every bus write is kept by any number of them. -/
theorem busWrites_ind {P : State → Prop} (h : ∀ a v s, P s → P (busWrite a v s)) (ws : List (Word × Byte)) {s : State}
    (hs : P s) : P (busWrites ws s) := by
  induction ws generalizing s with
  | nil => exact hs
  | cons w ws ih => exact ih (h w.1 w.2 s hs)

/-- The devices after t are those of s after some bus writes. -/
def DevicesAfterWrites (s t : State) : Prop := ∃ ws, SameDevices (busWrites ws s) t

/-- Two states with the same devices differ only in the CPU's state. -/
theorem SameDevices.eq_withCpu {s t : State} (h : SameDevices s t) : t = withCpu t s := by
  obtain ⟨-, h1, h2, h3, h4, h5, h6, h7, h8, h9, h10, h11⟩ := h
  obtain ⟨⟩ := t
  simp only at *
  subst_vars
  rfl

/-- A bus write does the same to the same devices. -/
theorem SameDevices.busWrite {s t : State} (h : SameDevices s t) (a : Word) (v : Byte) :
    SameDevices (busWrite a v s) (busWrite a v t) := by
  have hc : t.cycles = s.cycles := h.cycles
  have hp : t.params = s.params := h.params
  rw [h.eq_withCpu, busWrite_withCpu]
  refine .of_fields rfl rfl rfl rfl rfl rfl rfl rfl rfl ?_ ?_
  · rw [busWrite_cycles]; exact hc
  · rw [busWrite_params]; exact hp

namespace DevicesAfterWrites

theorem refl (s : State) : DevicesAfterWrites s s := ⟨[], .refl s⟩

theorem same {s u t : State} (h : DevicesAfterWrites s u) (h' : SameDevices u t) : DevicesAfterWrites s t := by
  obtain ⟨ws, hw⟩ := h
  exact ⟨ws, hw.trans h'⟩

theorem write {s u : State} (a : Word) (v : Byte) (h : DevicesAfterWrites s u) :
    DevicesAfterWrites s (busWrite a v u) := by
  obtain ⟨ws, hw⟩ := h
  refine ⟨ws ++ [(a, v)], ?_⟩
  have : busWrites (ws ++ [(a, v)]) s = Machine.busWrite a v (busWrites ws s) := by simp [busWrites]
  rw [this]
  exact hw.busWrite a v

theorem push {s u : State} (v : Word) (h : DevicesAfterWrites s u) : DevicesAfterWrites s (push16 v u) :=
  ((h.write (u.sp - 1) (hiByte v)).write (u.sp - 2) (loByte v)).same (sameDevices_push16 v u)

variable {s u : State} (h : DevicesAfterWrites s u)
include h

theorem advance (l : Word) (c : Nat) : DevicesAfterWrites s (advance l c u) := h.same (sameDevices_advance l c u)
theorem jumpTo (t : Word) (c : Nat) : DevicesAfterWrites s (jumpTo t c u) := h.same (sameDevices_jumpTo t c u)
theorem writeFlags (f : Flags) : DevicesAfterWrites s (writeFlags f u) := h.same (sameDevices_writeFlags f u)
theorem writeR8 (r : R8) (v : Byte) : DevicesAfterWrites s (writeR8 r v u) := h.same (sameDevices_writeR8 r v u)
theorem writeRp (rp : Rp) (v : Word) : DevicesAfterWrites s (writeRp rp v u) := h.same (sameDevices_writeRp rp v u)
theorem writeRp2 (rp : Rp2) (v : Word) : DevicesAfterWrites s (writeRp2 rp v u) := h.same (sameDevices_writeRp2 rp v u)
theorem writeHl (v : Word) : DevicesAfterWrites s (writeHl v u) := h.same (sameDevices_writeRp .hl v u)
theorem popSp : DevicesAfterWrites s (popSp u) := h.same (.of_fields rfl rfl rfl rfl rfl rfl rfl rfl rfl rfl rfl)
theorem returnFromIrq : DevicesAfterWrites s (returnFromIrq u) :=
  h.same (.of_fields rfl rfl rfl rfl rfl rfl rfl rfl rfl rfl rfl)
theorem raiseFault (f : Fault) : DevicesAfterWrites s (raiseFault f u) :=
  h.same (.of_fields rfl rfl rfl rfl rfl rfl rfl rfl rfl rfl rfl)

end DevicesAfterWrites

/-- The sequencing state that an instruction leaves: no fault is cleared, its next boundary is ahead or it is halted (or
a fault was raised), and each open behaviour leaves its mark only where its parameter is set. -/
structure SequencedFrom (s t : State) : Prop where
  next : t.fault = none → t.nextCycle = .halted ∨ ∃ cost, 1 ≤ cost ∧ t.nextCycle = .cycle (s.cycles + cost)
  fault : t.fault = none → s.fault = none
  eiDelay : t.imePending = true → s.imePending = true ∨ s.params.eiDelay = true
  haltBug : t.haltBugPending = true → s.haltBugPending = true ∨ s.params.haltBug = true

/-- The usual case: the next boundary is ahead, and the interrupt and fault state as before. -/
theorem SequencedFrom.plain {s t : State} (cost : Nat) (hc : 1 ≤ cost) (hn : t.nextCycle = .cycle (s.cycles + cost))
    (hf : t.fault = s.fault) (hi : t.imePending = s.imePending) (hh : t.haltBugPending = s.haltBugPending) :
    SequencedFrom s t :=
  ⟨fun _ => .inr ⟨cost, hc, hn⟩, fun h => hf ▸ h, fun h => .inl (hi ▸ h), fun h => .inl (hh ▸ h)⟩

/-! ## Any instruction -/

/-- A property of every non-PREFIX instruction's result holds of PREFIX's: its meaning is one of theirs. -/
theorem exec_prefixCB_of {P : State → Prop} {s t : State}
    (hP : ∀ i : Instr, (∀ b, i ≠ .prefixCB b) → ∀ t, exec i s = .next t → P t) (b1 : Byte)
    (h : exec (.prefixCB b1) s = .next t) : P t := by
  have h' : execPrefixCB b1 s = .next t := h
  unfold execPrefixCB at h'
  generalize fieldX b1 = x at h'
  generalize r8OfCode (fieldZ b1) = z at h'
  generalize fieldY b1 = y at h'
  rcases x with _ | _ | _ | x <;> rcases z with _ | r
  · rcases y with _ | _ | _ | _ | _ | _ | _ | y
    · exact hP .rlcInd (by simp) t h'
    · exact hP .rrcInd (by simp) t h'
    · exact hP .rlInd (by simp) t h'
    · exact hP .rrInd (by simp) t h'
    · exact hP .slaInd (by simp) t h'
    · exact hP .sraInd (by simp) t h'
    · exact hP .swapInd (by simp) t h'
    · exact hP .srlInd (by simp) t h'
  · rcases y with _ | _ | _ | _ | _ | _ | _ | y
    · exact hP (.rlcR r) (by simp) t h'
    · exact hP (.rrcR r) (by simp) t h'
    · exact hP (.rlR r) (by simp) t h'
    · exact hP (.rrR r) (by simp) t h'
    · exact hP (.slaR r) (by simp) t h'
    · exact hP (.sraR r) (by simp) t h'
    · exact hP (.swapR r) (by simp) t h'
    · exact hP (.srlR r) (by simp) t h'
  · exact hP (.bitInd _) (by simp) t h'
  · exact hP (.bitR _ r) (by simp) t h'
  · exact hP (.resInd _) (by simp) t h'
  · exact hP (.resR _ r) (by simp) t h'
  · exact hP (.setInd _) (by simp) t h'
  · exact hP (.setR _ r) (by simp) t h'

theorem exec_devices_core (i : Instr) (hi : ∀ b, i ≠ .prefixCB b) (s t : State) (h : exec i s = .next t) :
    DevicesAfterWrites s t := by
  have cpuOnly {u : State} (h : u.ie = s.ie ∧ u.iflag = s.iflag ∧ u.hram = s.hram ∧ u.timer = s.timer ∧ u.lcd = s.lcd ∧
      u.wram = s.wram ∧ u.bootDisabled = s.bootDisabled ∧ u.bootRom = s.bootRom ∧ u.cart = s.cart ∧
      u.cycles = s.cycles ∧ u.params = s.params) : DevicesAfterWrites s u := by
    obtain ⟨h1, h2, h3, h4, h5, h6, h7, h8, h9, h10, h11⟩ := h
    exact (DevicesAfterWrites.refl s).same (.of_fields h1 h2 h3 h4 h5 h6 h7 h8 h9 h10 h11)
  cases i
  case prefixCB b1 => exact absurd rfl (hi b1)
  case halt =>
    injection h with h; subst h
    split <;> exact cpuOnly ⟨rfl, rfl, rfl, rfl, rfl, rfl, rfl, rfl, rfl, rfl, rfl⟩
  case di => injection h with h; subst h; exact cpuOnly ⟨rfl, rfl, rfl, rfl, rfl, rfl, rfl, rfl, rfl, rfl, rfl⟩
  case ei => injection h with h; subst h; exact cpuOnly ⟨rfl, rfl, rfl, rfl, rfl, rfl, rfl, rfl, rfl, rfl, rfl⟩
  all_goals injection h with h; subst h
  all_goals try split
  all_goals try simp only [aluToA, rotateToA, shiftToR, shiftToInd, writeInd, busWrite16]
  all_goals
    repeat' with_reducible first
      | exact DevicesAfterWrites.refl s
      | apply DevicesAfterWrites.advance
      | apply DevicesAfterWrites.jumpTo
      | apply DevicesAfterWrites.writeFlags
      | apply DevicesAfterWrites.writeR8
      | apply DevicesAfterWrites.writeRp
      | apply DevicesAfterWrites.writeRp2
      | apply DevicesAfterWrites.writeHl
      | apply DevicesAfterWrites.popSp
      | apply DevicesAfterWrites.returnFromIrq
      | apply DevicesAfterWrites.raiseFault
      | apply DevicesAfterWrites.write
      | apply DevicesAfterWrites.push

/-- Whatever the instruction, the devices it leaves are those of its bus writes: nothing else reaches them. -/
theorem exec_devices (i : Instr) (s t : State) (h : exec i s = .next t) : DevicesAfterWrites s t := by
  by_cases hi : ∀ b, i ≠ .prefixCB b
  · exact exec_devices_core i hi s t h
  · simp only [not_forall, not_not] at hi
    obtain ⟨b, rfl⟩ := hi
    exact exec_prefixCB_of (P := DevicesAfterWrites s) (fun i hi t h => exec_devices_core i hi s t h) b h

theorem exec_sequenced_core (i : Instr) (hi : ∀ b, i ≠ .prefixCB b) (s t : State) (h : exec i s = .next t) :
    SequencedFrom s t := by
  cases i
  case prefixCB b1 => exact absurd rfl (hi b1)
  case halt =>
    injection h with h; subst h
    split
    · rename_i hb
      refine ⟨fun _ => .inr ⟨1, le_refl 1, rfl⟩, id, .inl, fun _ => .inr ?_⟩
      simp only [haltBugTaken, Bool.and_eq_true] at hb
      exact hb.2
    · exact ⟨fun _ => .inl rfl, id, .inl, .inl⟩
  case ei =>
    injection h with h; subst h
    refine ⟨fun _ => .inr ⟨1, le_refl 1, rfl⟩, id, ?_, .inl⟩
    by_cases hp : s.params.eiDelay = true
    · exact fun _ => .inr hp
    · simp only [advance_imePending, hp]
      exact .inl
  case di =>
    injection h with h; subst h
    exact ⟨fun _ => .inr ⟨1, le_refl 1, rfl⟩, id, fun h => absurd h (by simp), .inl⟩
  case reti =>
    injection h with h; subst h
    exact ⟨fun _ => .inr ⟨4, by omega, rfl⟩, id, fun h => absurd h (by simp), .inl⟩
  case stop n =>
    injection h with h; subst h
    exact ⟨fun h => absurd h (by simp), fun h => absurd h (by simp), .inl, .inl⟩
  case illegal op =>
    injection h with h; subst h
    exact ⟨fun h => absurd h (by simp), fun h => absurd h (by simp), .inl, .inl⟩
  all_goals injection h with h; subst h
  all_goals try split
  all_goals
    refine SequencedFrom.plain _ ?_ (by first | rfl | (simp [shiftToInd]; rfl)) ?_ ?_ ?_ <;>
      first | omega | rfl | simp [shiftToInd]

/-- Whatever the instruction, what it does to the sequencing state. -/
theorem exec_sequenced (i : Instr) (s t : State) (h : exec i s = .next t) : SequencedFrom s t := by
  by_cases hi : ∀ b, i ≠ .prefixCB b
  · exact exec_sequenced_core i hi s t h
  · simp only [not_forall, not_not] at hi
    obtain ⟨b, rfl⟩ := hi
    exact exec_prefixCB_of (P := SequencedFrom s) (fun i hi t h => exec_sequenced_core i hi s t h) b h

/-! ## A boundary that services an interrupt -/

/-- The state a service pushes from: IME and the open behaviours cleared, the request withdrawn. -/
def serviceBase (s : State) : State :=
  { s with ime := false, imePending := false, iflag := setBit s.iflag (lowestIrq (pendingIrqs s)) false,
           haltBugPending := false }

theorem sameDevices_serviceBoundary (s : State) :
    SameDevices (push16 (if s.haltBugPending then s.pc - 1 else s.pc) (serviceBase s)) (serviceBoundary s) := by
  unfold serviceBoundary
  rw [serviceIrq_eq]
  exact .of_fields rfl rfl rfl rfl rfl rfl rfl rfl rfl rfl rfl

/-- The devices after a service are those of the push. -/
theorem serviceBoundary_devices (s : State) : DevicesAfterWrites (serviceBase s) (serviceBoundary s) :=
  ((DevicesAfterWrites.refl _).push _).same (sameDevices_serviceBoundary s)

end Sys2Proof.Machine
end

