-- ==== Sys2Proof/Laws/PerInstr.lean ====
section
/-! SUPPORT. A statement per instruction about its encoding: as many bytes as 30_encoding.md R301 gives its first one. -/

namespace Sys2Proof.Laws.EncodeLength

/-- The encoding of a well-formed instruction begins with an opcode byte, and has the length that byte has in the table
of R301. -/
def Statement (i : Instr) : Prop :=
  i.wellFormed = true → ∃ (op : Byte) (operands : List Byte), encode i = op :: operands ∧ (encode i).length = opLength op

theorem ldRR (r r' : R8) : Statement (.ldRR r r') := by
  cases r <;> cases r' <;> exact fun _ => ⟨_, _, rfl, rfl⟩
theorem ldRN (r : R8) (n : Byte) : Statement (.ldRN r n) := by
  cases r <;> exact fun _ => ⟨_, _, rfl, rfl⟩
theorem ldRInd (r : R8) : Statement (.ldRInd r) := by
  cases r <;> exact fun _ => ⟨_, _, rfl, rfl⟩
theorem ldIndR (r : R8) : Statement (.ldIndR r) := by
  cases r <;> exact fun _ => ⟨_, _, rfl, rfl⟩
theorem ldIndN (n : Byte) : Statement (.ldIndN n) := fun _ => ⟨_, _, rfl, rfl⟩
theorem ldABc : Statement .ldABc := fun _ => ⟨_, _, rfl, rfl⟩
theorem ldADe : Statement .ldADe := fun _ => ⟨_, _, rfl, rfl⟩
theorem ldBcA : Statement .ldBcA := fun _ => ⟨_, _, rfl, rfl⟩
theorem ldDeA : Statement .ldDeA := fun _ => ⟨_, _, rfl, rfl⟩
theorem ldAA16 (a16 : Word) : Statement (.ldAA16 a16) := fun _ => ⟨_, _, rfl, rfl⟩
theorem ldA16A (a16 : Word) : Statement (.ldA16A a16) := fun _ => ⟨_, _, rfl, rfl⟩
theorem ldAHli : Statement .ldAHli := fun _ => ⟨_, _, rfl, rfl⟩
theorem ldAHld : Statement .ldAHld := fun _ => ⟨_, _, rfl, rfl⟩
theorem ldHliA : Statement .ldHliA := fun _ => ⟨_, _, rfl, rfl⟩
theorem ldHldA : Statement .ldHldA := fun _ => ⟨_, _, rfl, rfl⟩
theorem ldhAA8 (a8 : Byte) : Statement (.ldhAA8 a8) := fun _ => ⟨_, _, rfl, rfl⟩
theorem ldhA8A (a8 : Byte) : Statement (.ldhA8A a8) := fun _ => ⟨_, _, rfl, rfl⟩
theorem ldAC : Statement .ldAC := fun _ => ⟨_, _, rfl, rfl⟩
theorem ldCA : Statement .ldCA := fun _ => ⟨_, _, rfl, rfl⟩
theorem ldRpN16 (rp : Rp) (n16 : Word) : Statement (.ldRpN16 rp n16) := by
  cases rp <;> exact fun _ => ⟨_, _, rfl, rfl⟩
theorem ldA16Sp (a16 : Word) : Statement (.ldA16Sp a16) := fun _ => ⟨_, _, rfl, rfl⟩
theorem ldSpHl : Statement .ldSpHl := fun _ => ⟨_, _, rfl, rfl⟩
theorem ldHlSpE (e : Byte) : Statement (.ldHlSpE e) := fun _ => ⟨_, _, rfl, rfl⟩
theorem push (rp : Rp2) : Statement (.push rp) := by
  cases rp <;> exact fun _ => ⟨_, _, rfl, rfl⟩
theorem pop (rp : Rp2) : Statement (.pop rp) := by
  cases rp <;> exact fun _ => ⟨_, _, rfl, rfl⟩
theorem addR (r : R8) : Statement (.addR r) := by
  cases r <;> exact fun _ => ⟨_, _, rfl, rfl⟩
theorem addInd : Statement .addInd := fun _ => ⟨_, _, rfl, rfl⟩
theorem addN (n : Byte) : Statement (.addN n) := fun _ => ⟨_, _, rfl, rfl⟩
theorem adcR (r : R8) : Statement (.adcR r) := by
  cases r <;> exact fun _ => ⟨_, _, rfl, rfl⟩
theorem adcInd : Statement .adcInd := fun _ => ⟨_, _, rfl, rfl⟩
theorem adcN (n : Byte) : Statement (.adcN n) := fun _ => ⟨_, _, rfl, rfl⟩
theorem subR (r : R8) : Statement (.subR r) := by
  cases r <;> exact fun _ => ⟨_, _, rfl, rfl⟩
theorem subInd : Statement .subInd := fun _ => ⟨_, _, rfl, rfl⟩
theorem subN (n : Byte) : Statement (.subN n) := fun _ => ⟨_, _, rfl, rfl⟩
theorem sbcR (r : R8) : Statement (.sbcR r) := by
  cases r <;> exact fun _ => ⟨_, _, rfl, rfl⟩
theorem sbcInd : Statement .sbcInd := fun _ => ⟨_, _, rfl, rfl⟩
theorem sbcN (n : Byte) : Statement (.sbcN n) := fun _ => ⟨_, _, rfl, rfl⟩
theorem andR (r : R8) : Statement (.andR r) := by
  cases r <;> exact fun _ => ⟨_, _, rfl, rfl⟩
theorem andInd : Statement .andInd := fun _ => ⟨_, _, rfl, rfl⟩
theorem andN (n : Byte) : Statement (.andN n) := fun _ => ⟨_, _, rfl, rfl⟩
theorem xorR (r : R8) : Statement (.xorR r) := by
  cases r <;> exact fun _ => ⟨_, _, rfl, rfl⟩
theorem xorInd : Statement .xorInd := fun _ => ⟨_, _, rfl, rfl⟩
theorem xorN (n : Byte) : Statement (.xorN n) := fun _ => ⟨_, _, rfl, rfl⟩
theorem orR (r : R8) : Statement (.orR r) := by
  cases r <;> exact fun _ => ⟨_, _, rfl, rfl⟩
theorem orInd : Statement .orInd := fun _ => ⟨_, _, rfl, rfl⟩
theorem orN (n : Byte) : Statement (.orN n) := fun _ => ⟨_, _, rfl, rfl⟩
theorem cpR (r : R8) : Statement (.cpR r) := by
  cases r <;> exact fun _ => ⟨_, _, rfl, rfl⟩
theorem cpInd : Statement .cpInd := fun _ => ⟨_, _, rfl, rfl⟩
theorem cpN (n : Byte) : Statement (.cpN n) := fun _ => ⟨_, _, rfl, rfl⟩
theorem incR (r : R8) : Statement (.incR r) := by
  cases r <;> exact fun _ => ⟨_, _, rfl, rfl⟩
theorem incInd : Statement .incInd := fun _ => ⟨_, _, rfl, rfl⟩
theorem decR (r : R8) : Statement (.decR r) := by
  cases r <;> exact fun _ => ⟨_, _, rfl, rfl⟩
theorem decInd : Statement .decInd := fun _ => ⟨_, _, rfl, rfl⟩
theorem daa : Statement .daa := fun _ => ⟨_, _, rfl, rfl⟩
theorem cpl : Statement .cpl := fun _ => ⟨_, _, rfl, rfl⟩
theorem scf : Statement .scf := fun _ => ⟨_, _, rfl, rfl⟩
theorem ccf : Statement .ccf := fun _ => ⟨_, _, rfl, rfl⟩
theorem addHlRp (rp : Rp) : Statement (.addHlRp rp) := by
  cases rp <;> exact fun _ => ⟨_, _, rfl, rfl⟩
theorem incRp (rp : Rp) : Statement (.incRp rp) := by
  cases rp <;> exact fun _ => ⟨_, _, rfl, rfl⟩
theorem decRp (rp : Rp) : Statement (.decRp rp) := by
  cases rp <;> exact fun _ => ⟨_, _, rfl, rfl⟩
theorem addSpE (e : Byte) : Statement (.addSpE e) := fun _ => ⟨_, _, rfl, rfl⟩
theorem rlca : Statement .rlca := fun _ => ⟨_, _, rfl, rfl⟩
theorem rrca : Statement .rrca := fun _ => ⟨_, _, rfl, rfl⟩
theorem rla : Statement .rla := fun _ => ⟨_, _, rfl, rfl⟩
theorem rra : Statement .rra := fun _ => ⟨_, _, rfl, rfl⟩
theorem rlcR (r : R8) : Statement (.rlcR r) := fun _ => ⟨_, _, rfl, rfl⟩
theorem rlcInd : Statement .rlcInd := fun _ => ⟨_, _, rfl, rfl⟩
theorem rrcR (r : R8) : Statement (.rrcR r) := fun _ => ⟨_, _, rfl, rfl⟩
theorem rrcInd : Statement .rrcInd := fun _ => ⟨_, _, rfl, rfl⟩
theorem rlR (r : R8) : Statement (.rlR r) := fun _ => ⟨_, _, rfl, rfl⟩
theorem rlInd : Statement .rlInd := fun _ => ⟨_, _, rfl, rfl⟩
theorem rrR (r : R8) : Statement (.rrR r) := fun _ => ⟨_, _, rfl, rfl⟩
theorem rrInd : Statement .rrInd := fun _ => ⟨_, _, rfl, rfl⟩
theorem slaR (r : R8) : Statement (.slaR r) := fun _ => ⟨_, _, rfl, rfl⟩
theorem slaInd : Statement .slaInd := fun _ => ⟨_, _, rfl, rfl⟩
theorem sraR (r : R8) : Statement (.sraR r) := fun _ => ⟨_, _, rfl, rfl⟩
theorem sraInd : Statement .sraInd := fun _ => ⟨_, _, rfl, rfl⟩
theorem swapR (r : R8) : Statement (.swapR r) := fun _ => ⟨_, _, rfl, rfl⟩
theorem swapInd : Statement .swapInd := fun _ => ⟨_, _, rfl, rfl⟩
theorem srlR (r : R8) : Statement (.srlR r) := fun _ => ⟨_, _, rfl, rfl⟩
theorem srlInd : Statement .srlInd := fun _ => ⟨_, _, rfl, rfl⟩
theorem bitR (b : BitVec 3) (r : R8) : Statement (.bitR b r) := fun _ => ⟨_, _, rfl, rfl⟩
theorem bitInd (b : BitVec 3) : Statement (.bitInd b) := fun _ => ⟨_, _, rfl, rfl⟩
theorem resR (b : BitVec 3) (r : R8) : Statement (.resR b r) := fun _ => ⟨_, _, rfl, rfl⟩
theorem resInd (b : BitVec 3) : Statement (.resInd b) := fun _ => ⟨_, _, rfl, rfl⟩
theorem setR (b : BitVec 3) (r : R8) : Statement (.setR b r) := fun _ => ⟨_, _, rfl, rfl⟩
theorem setInd (b : BitVec 3) : Statement (.setInd b) := fun _ => ⟨_, _, rfl, rfl⟩
theorem jp (a16 : Word) : Statement (.jp a16) := fun _ => ⟨_, _, rfl, rfl⟩
theorem jpCc (cc : Cond) (a16 : Word) : Statement (.jpCc cc a16) := by
  cases cc <;> exact fun _ => ⟨_, _, rfl, rfl⟩
theorem jpHl : Statement .jpHl := fun _ => ⟨_, _, rfl, rfl⟩
theorem jr (e : Byte) : Statement (.jr e) := fun _ => ⟨_, _, rfl, rfl⟩
theorem jrCc (cc : Cond) (e : Byte) : Statement (.jrCc cc e) := by
  cases cc <;> exact fun _ => ⟨_, _, rfl, rfl⟩
theorem call (a16 : Word) : Statement (.call a16) := fun _ => ⟨_, _, rfl, rfl⟩
theorem callCc (cc : Cond) (a16 : Word) : Statement (.callCc cc a16) := by
  cases cc <;> exact fun _ => ⟨_, _, rfl, rfl⟩
theorem ret : Statement .ret := fun _ => ⟨_, _, rfl, rfl⟩
theorem retCc (cc : Cond) : Statement (.retCc cc) := by
  cases cc <;> exact fun _ => ⟨_, _, rfl, rfl⟩
theorem reti : Statement .reti := fun _ => ⟨_, _, rfl, rfl⟩
theorem rst (y : BitVec 3) : Statement (.rst y) := fun _ => ⟨_, _, rfl, by revert y; decide⟩
theorem nop : Statement .nop := fun _ => ⟨_, _, rfl, rfl⟩
theorem halt : Statement .halt := fun _ => ⟨_, _, rfl, rfl⟩
theorem stop (n : Byte) : Statement (.stop n) := fun _ => ⟨_, _, rfl, rfl⟩
theorem di : Statement .di := fun _ => ⟨_, _, rfl, rfl⟩
theorem ei : Statement .ei := fun _ => ⟨_, _, rfl, rfl⟩
theorem prefixCB (b1 : Byte) : Statement (.prefixCB b1) := fun _ => ⟨_, _, rfl, rfl⟩
theorem illegal (op : Byte) : Statement (.illegal op) := fun h => ⟨op, [], rfl, by revert op; decide⟩

end Sys2Proof.Laws.EncodeLength
end

