-- ==== Sys2Proof/Laws/Render.lean ====
section
/-! SUPPORT. The pixels of the rendered lines (60_exceptions.md section 8): of a map line, of two lines joined, and of one
line below another. -/

namespace Sys2Proof.Machine

/-- The planes of `n` tiles, eight pixels each, put side by side. -/
theorem plane_foldl_getLsbD (f : Nat → Byte) (n i : Nat) (hn : n ≤ 32) (hi : i < 256) :
    ((List.range n).foldl (fun acc k => acc ||| ((f k).setWidth 256 <<< (8 * k))) (0 : BitVec 256)).getLsbD i =
      (decide (i < 8 * n) && (f (i / 8)).getLsbD (i % 8)) := by
  induction n with
  | zero => simp
  | succ m ih =>
    rw [List.range_succ, List.foldl_append, List.foldl_cons, List.foldl_nil, BitVec.getLsbD_or, ih (by omega)]
    simp only [BitVec.getLsbD_shiftLeft, BitVec.getLsbD_setWidth, hi, decide_true, Bool.true_and]
    by_cases h1 : i < 8 * m
    · have h2 : i < 8 * (m + 1) := by omega
      simp [h1, h2]
    · by_cases h2 : i < 8 * (m + 1)
      · have h3 : i / 8 = m := by omega
        have h4 : i - 8 * m = i % 8 := by omega
        have h5 : i % 8 < 256 := by omega
        simp [h1, h2, h3, h4, h5]
      · have h3 : (f m).getLsbD (i - 8 * m) = false := BitVec.getLsbD_of_ge _ _ (by omega)
        simp [h1, h2, h3]

/-- Pixel i of a plane is bit `i mod 8` of the byte of its tile. -/
theorem plane256_getLsbD (f : Nat → Byte) (i : Nat) (hi : i < 256) :
    (plane256 f).getLsbD i = (f (i / 8)).getLsbD (i % 8) := by
  unfold plane256
  rw [plane_foldl_getLsbD f 32 i (le_refl _) hi]
  simp [hi]

/-- Bit 7 of a byte is its leftmost pixel. -/
theorem reverse8_getLsbD (b : Byte) (j : Nat) (hj : j < 8) : (reverse8 b).getLsbD j = b.getLsbD (7 - j) := by
  have : ∀ b : Byte, ∀ j : Fin 8, (reverse8 b).getLsbD j = b.getLsbD (7 - j) := by decide
  exact this b ⟨j, hj⟩

/-- A bit shifted past an edge is lost (R854): nothing of the lowest eight pixels is left by a shift out of the line. -/
theorem shiftBits_byte_out (b : Byte) (d : Int) (hd : d ≤ -8 ∨ 160 ≤ d) : shiftBits (b.setWidth 160) d = 0 := by
  unfold shiftBits extractZeroExtended
  apply BitVec.eq_of_getLsbD_eq
  intro i hi
  split
  · have : i < d.toNat := by omega
    simp only [neg_neg, BitVec.getLsbD_shiftLeft, this]
    simp
  · have : b.getLsbD ((-d).toNat + i) = false := BitVec.getLsbD_of_ge _ _ (by omega)
    simp only [BitVec.getLsbD_setWidth, BitVec.getLsbD_ushiftRight, this]
    simp

/-- Pixel `col` of a map line: its planes are the two bits of the color index there, and it is opaque where one is set
(R820, R821). -/
theorem mapLine256_pixel (l : Lcd) (map : Nat) (hmap : 0x8000 ≤ map) (row : Byte) (col : Nat) (hcol : col < 256) :
    mapColorIndex l (map - 0x8000) row.toNat col = pixelColor (mapLine256 l map row) col ∧
    (mapLine256 l map row).opacity.getLsbD col =
      ((mapLine256 l map row).msb.getLsbD col || (mapLine256 l map row).lsb.getLsbD col) := by
  have hmod : col % 8 < 8 := Nat.mod_lt _ (by norm_num)
  have htile : vramAt l (map + 32 * (row.toNat / 8) + col / 8) =
      memRead l.vram (map - 0x8000 + 32 * (row.toNat / 8) + col / 8) := by
    have e : map + 32 * (row.toNat / 8) + col / 8 - 0x8000 = map - 0x8000 + 32 * (row.toNat / 8) + col / 8 := by omega
    unfold vramAt; rw [e]
  set tile := memRead l.vram (map - 0x8000 + 32 * (row.toNat / 8) + col / 8) with htl
  set base := if lcdcBit l 4 then 16 * tile.toNat else (0x1000 + 16 * tile.toInt).toNat with hbs
  have hbase : ∀ k, vramAt l (bgTileBase l tile + k) = memRead l.vram (base + k) := by
    have b1 := BitVec.toInt_lt (x := tile)
    have b2 := BitVec.le_toInt (x := tile)
    have e : bgTileBase l tile = 0x8000 + base := by
      rw [hbs]; unfold bgTileBase; clear_value tile; split <;> omega
    intro k; unfold vramAt; rw [e, Nat.add_assoc, Nat.add_sub_cancel_left]
  have hp : ∀ o, (plane256 fun k => reverse8 (vramAt l (bgTileBase l (vramAt l (map + 32 * (row.toNat / 8) + k)) +
      2 * (row.toNat % 8) + o))).getLsbD col = (memRead l.vram (base + 2 * (row.toNat % 8) + o)).getLsbD (7 - col % 8) := by
    intro o
    rw [plane256_getLsbD _ _ hcol, reverse8_getLsbD _ _ hmod, htile, Nat.add_assoc, hbase, Nat.add_assoc]
  have h0 := hp 0
  have h1 := hp 1
  constructor
  · unfold pixelColor
    simp only [mapLine256, Nat.add_zero] at h0 ⊢
    rw [h0, h1]; rfl
  · simp only [mapLine256, BitVec.getLsbD_or]

/-- `join` takes the bits below the position from the first, the others from the second (R855). -/
theorem joinBits_getLsbD {n : Nat} (v w : BitVec n) (pos x : Nat) (hx : x < n) :
    (joinBits v w pos).getLsbD x = if x < pos then v.getLsbD x else w.getLsbD x := by
  unfold joinBits
  by_cases h : x < pos <;> simp [hx, h]

/-- `below` shows the other line where that is opaque (R855). -/
theorem pixelColor_lineBelow {n : Nat} (p q : PixelLine n) (x : Nat) (hx : x < n) :
    pixelColor (lineBelow p q) x = if q.opacity.getLsbD x then pixelColor q x else pixelColor p x := by
  unfold lineBelow lineBelowMask pixelColor
  simp only [BitVec.getLsbD_or, BitVec.getLsbD_and, BitVec.getLsbD_not, hx]
  cases q.opacity.getLsbD x <;> simp

/-- `below` is opaque where either line is (R855). -/
theorem lineBelow_opacity {n : Nat} (p q : PixelLine n) (x : Nat) :
    (lineBelow p q).opacity.getLsbD x = (p.opacity.getLsbD x || q.opacity.getLsbD x) := by
  simp [lineBelow, lineBelowMask]

end Sys2Proof.Machine
end

