-- ==== Sys2Proof/Laws/Windows.lean ====
section
/-! SUPPORT. The address map as a case analysis (20_memory.md R214): every address is in one window, and a read of it
depends on that window's device alone. -/

namespace Sys2Proof.Machine

/-- The window an address is in. -/
inductive Window (a : Word) : Prop where
  /-- boot ROM and cartridge, through the multiplexer -/
  | mux (h : a.toNat < 0x8000 ∨ 0xA000 ≤ a.toNat ∧ a.toNat < 0xC000)
  | vram (h : 0x8000 ≤ a.toNat) (h' : a.toNat < 0xA000)
  | wram (h : 0xC000 ≤ a.toNat) (h' : a.toNat < 0xE000)
  | echo (h : 0xE000 ≤ a.toNat) (h' : a.toNat < 0xFE00)
  | oam (h : 0xFE00 ≤ a.toNat) (h' : a.toNat < 0xFEA0)
  | timer (h : 0xFF04 ≤ a.toNat) (h' : a.toNat < 0xFF08)
  | interruptFlag (h : a = 0xFF0F)
  | lcd (h : 0xFF40 ≤ a.toNat) (h' : a.toNat < 0xFF4C)
  | hram (h : 0xFF80 ≤ a.toNat) (h' : a.toNat < 0xFFFF)
  | interruptEnable (h : a = 0xFFFF)
  /-- no device, in one of the four gaps above OAM -/
  | none (h : 0xFEA0 ≤ a.toNat ∧ a.toNat < 0xFF04 ∨ 0xFF08 ≤ a.toNat ∧ a.toNat < 0xFF0F ∨
      0xFF10 ≤ a.toNat ∧ a.toNat < 0xFF40 ∨ 0xFF4C ≤ a.toNat ∧ a.toNat < 0xFF80)

/-- Every address is in a window. -/
theorem Window.of_address (a : Word) : Window a := by
  have hlt := a.isLt
  by_cases h1 : a.toNat < 0xC000
  · by_cases h2 : 0x8000 ≤ a.toNat ∧ a.toNat < 0xA000
    · exact .vram h2.1 h2.2
    · exact .mux (by omega)
  by_cases h2 : a.toNat < 0xE000
  · exact .wram (by omega) h2
  by_cases h3 : a.toNat < 0xFE00
  · exact .echo (by omega) h3
  by_cases h4 : a.toNat < 0xFEA0
  · exact .oam (by omega) h4
  by_cases h5 : 0xFF04 ≤ a.toNat ∧ a.toNat < 0xFF08
  · exact .timer h5.1 h5.2
  by_cases h6 : a.toNat = 0xFF0F
  · exact .interruptFlag (BitVec.eq_of_toNat_eq h6)
  by_cases h7 : 0xFF40 ≤ a.toNat ∧ a.toNat < 0xFF4C
  · exact .lcd h7.1 h7.2
  by_cases h8 : 0xFF80 ≤ a.toNat ∧ a.toNat < 0xFFFF
  · exact .hram h8.1 h8.2
  by_cases h9 : a.toNat = 0xFFFF
  · exact .interruptEnable (BitVec.eq_of_toNat_eq h9)
  · exact .none (by omega)

section
variable {b : Word} {s t : State}

/-- A read through the multiplexer depends on the latch, the boot ROM and what the cartridge answers. -/
theorem busRead_mux_congr (h : b.toNat < 0x8000 ∨ 0xA000 ≤ b.toNat ∧ b.toNat < 0xC000)
    (hl : t.bootDisabled = s.bootDisabled ∨ 0xFF < b.toNat) (hb : t.bootRom = s.bootRom)
    (hc : cartRead b.toNat t.cart = cartRead b.toNat s.cart) : busRead b t = busRead b s := by
  rw [busRead_mux _ h, busRead_mux _ h]
  unfold muxRead
  rw [hb, hc]
  rcases hl with hl | hl
  · rw [hl]
  · have : decide (b.toNat ≤ 0xFF) = false := by simp; omega
    rw [this]; simp

/-- A read of a timer register depends on the timer. -/
theorem busRead_timer_congr (h : 0xFF04 ≤ b.toNat) (h' : b.toNat < 0xFF08) (ht : t.timer = s.timer) :
    busRead b t = busRead b s := by
  rw [busRead_timerReg _ h h', busRead_timerReg _ h h']
  simp only [timerRead, ht]

/-- A read of a display register depends on the display. -/
theorem busRead_lcd_congr (h : 0xFF40 ≤ b.toNat) (h' : b.toNat < 0xFF4C) (ht : t.lcd = s.lcd) :
    busRead b t = busRead b s := by
  rw [busRead_lcdReg _ h h', busRead_lcdReg _ h h']
  simp only [lcdRead, ht]

end

end Sys2Proof.Machine
end

