-- ==== Sys2Proof/Tests/Slice0.lean ====
section
/-! SUPPORT. Tests of the model, every expected value from spec/: the WellFormed smoke test, each constructor's decoding
from a word written out from its Encoding line, single steps from spec/95_test_vectors.md, and a witness for every
statement with hypotheses. -/

namespace Sys2Proof.Tests

open Sys2Proof.Machine

/-! ## WellFormed refuses an ill-formed term of each kind -/

theorem test_illFormed_illegal : (Instr.illegal 0x00).wellFormed = false ∧ (Instr.illegal 0xCB).wellFormed = false := by
  decide
theorem test_illFormed_prefix : (Instr.prefixCB 0x00).wellFormed = false := by decide
theorem test_wellFormed_illegal : ∀ op ∈ illegalOpcodes, (Instr.illegal op).wellFormed = true := by decide

/-! ## Decoding, by family: each word written out from the Encoding line of its rule -/

/-- Each list of bytes decodes to the instruction beside it, with no byte left. -/
def decodeTo (words : List (List Byte × Instr)) : Bool :=
  words.all fun w => decide (decode w.1 = .ok (w.2, []))

theorem test_decode_loads : decodeTo
    [([0x41], .ldRR .b .c),
     ([0x3E, 0xC0], .ldRN .a 0xC0),
     ([0x56], .ldRInd .d),
     ([0x73], .ldIndR .e),
     ([0x36, 0x9A], .ldIndN 0x9A),
     ([0x0A], .ldABc),
     ([0x1A], .ldADe),
     ([0x02], .ldBcA),
     ([0x12], .ldDeA),
     ([0xFA, 0x34, 0x12], .ldAA16 0x1234),
     ([0xEA, 0x34, 0x12], .ldA16A 0x1234),
     ([0x2A], .ldAHli),
     ([0x3A], .ldAHld),
     ([0x22], .ldHliA),
     ([0x32], .ldHldA),
     ([0xF0, 0x44], .ldhAA8 0x44),
     ([0xE0, 0x46], .ldhA8A 0x46),
     ([0xF2], .ldAC),
     ([0xE2], .ldCA),
     ([0x31, 0xFE, 0xFF], .ldRpN16 .sp 0xFFFE),
     ([0x08, 0x80, 0xFF], .ldA16Sp 0xFF80),
     ([0xF9], .ldSpHl),
     ([0xF8, 0x80], .ldHlSpE 0x80),
     ([0xC5], .push .bc),
     ([0xF1], .pop .af)] = true := by decide

theorem test_decode_alu8_addSub : decodeTo
    [([0x80], .addR .b),
     ([0x86], .addInd),
     ([0xC6, 0x38], .addN 0x38),
     ([0x8F], .adcR .a),
     ([0x8E], .adcInd),
     ([0xCE, 0x01], .adcN 0x01),
     ([0x92], .subR .d),
     ([0x96], .subInd),
     ([0xD6, 0x01], .subN 0x01),
     ([0x9C], .sbcR .h),
     ([0x9E], .sbcInd),
     ([0xDE, 0x01], .sbcN 0x01)] = true := by decide

theorem test_decode_alu8_logic : decodeTo
    [([0xA5], .andR .l),
     ([0xA6], .andInd),
     ([0xE6, 0x0F], .andN 0x0F),
     ([0xAF], .xorR .a),
     ([0xAE], .xorInd),
     ([0xEE, 0x0F], .xorN 0x0F),
     ([0xB3], .orR .e),
     ([0xB6], .orInd),
     ([0xF6, 0x0F], .orN 0x0F),
     ([0xB9], .cpR .c),
     ([0xBE], .cpInd),
     ([0xFE, 0x90], .cpN 0x90),
     ([0x0C], .incR .c),
     ([0x34], .incInd),
     ([0x3D], .decR .a),
     ([0x35], .decInd),
     ([0x27], .daa),
     ([0x2F], .cpl),
     ([0x37], .scf),
     ([0x3F], .ccf)] = true := by decide

theorem test_decode_alu16 : decodeTo
    [([0x29], .addHlRp .hl),
     ([0x13], .incRp .de),
     ([0x3B], .decRp .sp),
     ([0xE8, 0xFF], .addSpE 0xFF)] = true := by decide

theorem test_decode_rotates : decodeTo
    [([0x07], .rlca),
     ([0x0F], .rrca),
     ([0x17], .rla),
     ([0x1F], .rra)] = true := by decide

theorem test_decode_prefixed : decodeTo
    [([0xCB, 0x00], .rlcR .b),
     ([0xCB, 0x06], .rlcInd),
     ([0xCB, 0x09], .rrcR .c),
     ([0xCB, 0x0E], .rrcInd),
     ([0xCB, 0x12], .rlR .d),
     ([0xCB, 0x16], .rlInd),
     ([0xCB, 0x1F], .rrR .a),
     ([0xCB, 0x1E], .rrInd),
     ([0xCB, 0x23], .slaR .e),
     ([0xCB, 0x26], .slaInd),
     ([0xCB, 0x2C], .sraR .h),
     ([0xCB, 0x2E], .sraInd),
     ([0xCB, 0x37], .swapR .a),
     ([0xCB, 0x36], .swapInd),
     ([0xCB, 0x3D], .srlR .l),
     ([0xCB, 0x3E], .srlInd)] = true := by decide

theorem test_decode_bits : decodeTo
    [([0xCB, 0x7C], .bitR 7 .h),
     ([0xCB, 0x5E], .bitInd 3),
     ([0xCB, 0xBF], .resR 7 .a),
     ([0xCB, 0x96], .resInd 2),
     ([0xCB, 0xC9], .setR 1 .c),
     ([0xCB, 0xC6], .setInd 0)] = true := by decide

theorem test_decode_control : decodeTo
    [([0xC3, 0x50, 0x01], .jp 0x0150),
     ([0xDA, 0x00, 0x02], .jpCc .c 0x0200),
     ([0xE9], .jpHl),
     ([0x18, 0xFE], .jr 0xFE),
     ([0x20, 0x05], .jrCc .nz 0x05),
     ([0xCD, 0x34, 0x12], .call 0x1234),
     ([0xCC, 0x34, 0x12], .callCc .z 0x1234),
     ([0xC9], .ret),
     ([0xD0], .retCc .nc),
     ([0xD9], .reti),
     ([0xEF], .rst 5)] = true := by decide

theorem test_decode_system : decodeTo
    [([0x00], .nop),
     ([0x76], .halt),
     ([0x10, 0x00], .stop 0x00),
     ([0xF3], .di),
     ([0xFB], .ei),
     ([0xED], .illegal 0xED)] = true := by decide

/-- The prefix byte alone is no instruction: its second byte is read with it, and the bytes after it are left (R607). -/
theorem test_decode_lengths : decode [0xCB, 0x11, 0x80] = .ok (.rlR .c, [0x80]) ∧
    decode [0xCB] = .error (.truncated 0xCB) ∧ decode [0x01, 0x34] = .error (.truncated 0x01) ∧
    decode [] = .error .noBytes := ⟨rfl, rfl, rfl, rfl⟩

/-- The numbering of spec/opcode_table.json: a prefixed row's first byte is its bits 15 to 8. -/
theorem test_tableWords : decodeTableWord 8 0x76 = some .halt ∧ decodeTableWord 8 0xC3 = some (.jp 0) ∧
    decodeTableWord 16 0xCB37 = some (.swapR .a) ∧ decodeTableWord 8 0xD3 = some (.illegal 0xD3) := by decide

/-! ## Single steps, from spec/95_test_vectors.md: the common start state, one step -/

/-- The launch of the vectors: an all-zero 32768-byte image, header byte 0x147 zero, but for the code at 0x0100. -/
def vectorLaunch (code : List Byte) (eiDelay haltBug : Bool) : Launch :=
  { romSize := 32768, cart := (List.range' 0x100 code.length).zip code, bootRom := [], bootMode := .postBoot,
    initWram := [], initVram := [], initOam := [], initHram := [], initCartRam := [], eiDelay := eiDelay,
    haltBug := haltBug }

/-- The common start state of the vectors, its open parameters as given. -/
def startWith (code : List Byte) (eiDelay haltBug : Bool) : State :=
  let l := vectorLaunch code eiDelay haltBug
  postBootState l (freshCart .mbc0 32768 (memOfCells 32768 l.cart) 0 [])

/-- The common start state of the vectors: `EI_DELAY = 1`, `HALT_BUG = false`. -/
def start (code : List Byte) : State := startWith code true false

/-- One step answers a next state that passes the check. -/
def stepGives (s : State) (check : State → Bool) : Bool :=
  match step s with
  | .next t => check t
  | _ => false

theorem exists_of_stepGives {s : State} {check : State → Bool} (h : stepGives s check = true) :
    ∃ t, step s = .next t ∧ check t = true := by
  unfold stepGives at h
  split at h
  · exact ⟨_, by assumption, h⟩
  · cases h

/-- The pc and the cycle of the next fetch boundary. -/
def endsAt (pc : Word) (next : Nat) (t : State) : Bool := t.pc == pc && decide (t.nextCycle = .cycle next)

/-- A and F. -/
def afIs (a f : Byte) (t : State) : Bool := readReg .a t == a && readReg .f t == f

theorem test_ld_b_b : stepGives (start [0x40])
    (fun t => readReg .b t == 0x00 && readReg .f t == 0xB0 && endsAt 0x0101 1 t) = true := by decide
theorem test_ld_a_n8 : stepGives (start [0x3E, 0xC0])
    (fun t => afIs 0xC0 0xB0 t && endsAt 0x0102 2 t) = true := by decide
theorem test_ld_d_hl : stepGives (writeHl 0xC000 <| busWrite 0xC000 0x5A <| start [0x56])
    (fun t => readReg .d t == 0x5A && endsAt 0x0101 2 t) = true := by decide
theorem test_ld_hl_e : stepGives (writeHl 0xC000 <| writeReg .e 0x31 <| start [0x73])
    (fun t => busRead 0xC000 t == 0x31 && endsAt 0x0101 2 t) = true := by decide
theorem test_ld_hl_n8 : stepGives (writeHl 0xDFFF <| start [0x36, 0x9A])
    (fun t => busRead 0xDFFF t == 0x9A && endsAt 0x0102 3 t) = true := by decide
theorem test_ld_a_bc : stepGives (writeBc 0xC000 <| busWrite 0xC000 0x77 <| start [0x0A])
    (fun t => readReg .a t == 0x77 && endsAt 0x0101 2 t) = true := by decide
theorem test_ld_a_de : stepGives (writeDe 0xC001 <| busWrite 0xC001 0x78 <| start [0x1A])
    (fun t => readReg .a t == 0x78 && endsAt 0x0101 2 t) = true := by decide
theorem test_ld_bc_a : stepGives (writeBc 0xC000 <| writeReg .a 0x77 <| start [0x02])
    (fun t => busRead 0xC000 t == 0x77 && endsAt 0x0101 2 t) = true := by decide
theorem test_ld_de_a : stepGives (writeDe 0xC002 <| writeReg .a 0x79 <| start [0x12])
    (fun t => busRead 0xC002 t == 0x79 && busRead 0xE002 t == 0x79 && endsAt 0x0101 2 t) = true := by decide
theorem test_ld_a_a16 : stepGives (busWrite 0xC000 0x12 <| start [0xFA, 0x00, 0xE0])
    (fun t => readReg .a t == 0x12 && endsAt 0x0103 4 t) = true := by decide
theorem test_ld_a16_a : stepGives (writeReg .a 0x25 <| start [0xEA, 0x02, 0xC0])
    (fun t => busRead 0xC002 t == 0x25 && endsAt 0x0103 4 t) = true := by decide
theorem test_ld_a_hli_wraps : stepGives (writeHl 0xFFFF <| start [0x2A])
    (fun t => readReg .a t == 0x00 && readHl t == 0x0000 && endsAt 0x0101 2 t) = true := by decide
theorem test_ld_a_hld : stepGives (writeHl 0xC001 <| busWrite 0xC001 0x13 <| start [0x3A])
    (fun t => readReg .a t == 0x13 && readHl t == 0xC000 && endsAt 0x0101 2 t) = true := by decide
theorem test_ld_hli_a : stepGives (writeHl 0xC000 <| writeReg .a 0x12 <| start [0x22])
    (fun t => busRead 0xC000 t == 0x12 && readHl t == 0xC001 && endsAt 0x0101 2 t) = true := by decide
theorem test_ld_hld_a_rom : stepGives (writeHl 0x0000 <| writeReg .a 0x77 <| start [0x32])
    (fun t => busRead 0x0000 t == 0x00 && readHl t == 0xFFFF && endsAt 0x0101 2 t) = true := by decide
theorem test_ldh_a_a8 : stepGives (start [0xF0, 0x44])
    (fun t => readReg .a t == 0x00 && endsAt 0x0102 3 t) = true := by decide
theorem test_ldh_a8_a : stepGives (writeReg .a 0x5C <| start [0xE0, 0x42])
    (fun t => busRead 0xFF42 t == 0x5C && endsAt 0x0102 3 t) = true := by decide
theorem test_ld_a_c : stepGives (writeReg .c 0x04 <| start [0xF2])
    (fun t => readReg .a t == 0xAB && endsAt 0x0101 2 t) = true := by decide
theorem test_ld_c_a : stepGives (writeReg .c 0x80 <| writeReg .a 0x99 <| start [0xE2])
    (fun t => busRead 0xFF80 t == 0x99 && endsAt 0x0101 2 t) = true := by decide
theorem test_ld_sp_n16 : stepGives (start [0x31, 0xFE, 0xDF])
    (fun t => t.sp == 0xDFFE && endsAt 0x0103 3 t) = true := by decide
theorem test_ld_a16_sp : stepGives ({ start [0x08, 0x80, 0xFF] with sp := 0xBEEF })
    (fun t => busRead 0xFF80 t == 0xEF && busRead 0xFF81 t == 0xBE && endsAt 0x0103 5 t) = true := by decide
theorem test_ld_sp_hl : stepGives (writeHl 0xC123 <| start [0xF9])
    (fun t => t.sp == 0xC123 && endsAt 0x0101 2 t) = true := by decide
theorem test_ld_hl_sp_plus : stepGives (writeReg .f 0x80 <| { start [0xF8, 0x02] with sp := 0xFFF8 })
    (fun t => readHl t == 0xFFFA && readReg .f t == 0x00 && endsAt 0x0102 3 t) = true := by decide
theorem test_ld_hl_sp_minus : stepGives ({ start [0xF8, 0x80] with sp := 0x0080 })
    (fun t => readHl t == 0x0000 && readReg .f t == 0x10 && endsAt 0x0102 3 t) = true := by decide
theorem test_push_bc : stepGives (writeBc 0x1234 <| { start [0xC5] with sp := 0xFFFE })
    (fun t => t.sp == 0xFFFC && busRead 0xFFFD t == 0x12 && busRead 0xFFFC t == 0x34 && endsAt 0x0101 4 t) = true := by decide
theorem test_pop_af : stepGives (busWrite 0xFFFC 0xFF <| busWrite 0xFFFD 0x12 <| { start [0xF1] with sp := 0xFFFC })
    (fun t => afIs 0x12 0xF0 t && t.sp == 0xFFFE && endsAt 0x0101 3 t) = true := by decide
theorem test_add_r_zero : stepGives (writeReg .a 0x3A <| writeReg .b 0xC6 <| start [0x80])
    (fun t => afIs 0x00 0xB0 t && endsAt 0x0101 1 t) = true := by decide
theorem test_add_r_half : stepGives (writeReg .a 0x0F <| writeReg .b 0x01 <| start [0x80])
    (fun t => afIs 0x10 0x20 t && endsAt 0x0101 1 t) = true := by decide
theorem test_add_hl : stepGives (writeReg .a 0x80 <| writeHl 0xC000 <| busWrite 0xC000 0x80 <| start [0x86])
    (fun t => afIs 0x00 0x90 t && endsAt 0x0101 2 t) = true := by decide
theorem test_add_n8 : stepGives (writeReg .a 0x45 <| start [0xC6, 0x38])
    (fun t => afIs 0x7D 0x00 t && endsAt 0x0102 2 t) = true := by decide
theorem test_adc_r : stepGives (writeReg .a 0xE1 <| writeReg .b 0x0F <| writeReg .f 0x10 <| start [0x88])
    (fun t => afIs 0xF1 0x20 t && endsAt 0x0101 1 t) = true := by decide
theorem test_adc_r_wraps : stepGives (writeReg .a 0xFF <| writeReg .b 0x00 <| writeReg .f 0x10 <| start [0x88])
    (fun t => afIs 0x00 0xB0 t && endsAt 0x0101 1 t) = true := by decide
theorem test_adc_hl : stepGives (writeReg .a 0xE1 <| writeHl 0xC000 <| busWrite 0xC000 0x0F <| writeReg .f 0x10 <| start [0x8E])
    (fun t => afIs 0xF1 0x20 t && endsAt 0x0101 2 t) = true := by decide
theorem test_adc_n8 : stepGives (writeReg .a 0xFF <| writeReg .f 0x10 <| start [0xCE, 0x00])
    (fun t => afIs 0x00 0xB0 t && endsAt 0x0102 2 t) = true := by decide
theorem test_sub_r_half : stepGives (writeReg .a 0x3E <| writeReg .b 0x0F <| start [0x90])
    (fun t => afIs 0x2F 0x60 t && endsAt 0x0101 1 t) = true := by decide
theorem test_sub_r_borrow : stepGives (writeReg .a 0x3E <| writeReg .b 0x40 <| start [0x90])
    (fun t => afIs 0xFE 0x50 t && endsAt 0x0101 1 t) = true := by decide
theorem test_sub_hl : stepGives (writeReg .a 0x3E <| writeHl 0xC000 <| busWrite 0xC000 0x3E <| start [0x96])
    (fun t => afIs 0x00 0xC0 t && endsAt 0x0101 2 t) = true := by decide
theorem test_sub_n8 : stepGives (writeReg .a 0x3E <| start [0xD6, 0x0F])
    (fun t => afIs 0x2F 0x60 t && endsAt 0x0102 2 t) = true := by decide
theorem test_sbc_r_h : stepGives (writeReg .a 0x3B <| writeReg .h 0x2A <| writeReg .f 0x10 <| start [0x9C])
    (fun t => afIs 0x10 0x40 t && endsAt 0x0101 1 t) = true := by decide
theorem test_sbc_r_wraps : stepGives (writeReg .a 0x00 <| writeReg .b 0x00 <| writeReg .f 0x10 <| start [0x98])
    (fun t => afIs 0xFF 0x70 t && endsAt 0x0101 1 t) = true := by decide
theorem test_sbc_hl : stepGives (writeReg .a 0x3B <| writeHl 0xC000 <| busWrite 0xC000 0x2A <| writeReg .f 0x10 <| start [0x9E])
    (fun t => afIs 0x10 0x40 t && endsAt 0x0101 2 t) = true := by decide
theorem test_sbc_n8 : stepGives (writeReg .a 0x00 <| writeReg .f 0x10 <| start [0xDE, 0x00])
    (fun t => afIs 0xFF 0x70 t && endsAt 0x0102 2 t) = true := by decide
theorem test_and_r : stepGives (writeReg .a 0x5A <| writeReg .b 0x3F <| writeReg .f 0x10 <| start [0xA0])
    (fun t => afIs 0x1A 0x20 t && endsAt 0x0101 1 t) = true := by decide
theorem test_and_hl : stepGives (writeReg .a 0x5A <| writeHl 0xC000 <| busWrite 0xC000 0x00 <| start [0xA6])
    (fun t => afIs 0x00 0xA0 t && endsAt 0x0101 2 t) = true := by decide
theorem test_and_n8 : stepGives (writeReg .a 0x5A <| start [0xE6, 0x3F])
    (fun t => afIs 0x1A 0x20 t && endsAt 0x0102 2 t) = true := by decide
theorem test_xor_a : stepGives (writeReg .a 0x5A <| writeReg .f 0x70 <| start [0xAF])
    (fun t => afIs 0x00 0x80 t && endsAt 0x0101 1 t) = true := by decide
theorem test_xor_hl : stepGives (writeReg .a 0xFF <| writeHl 0xC000 <| busWrite 0xC000 0x0F <| start [0xAE])
    (fun t => afIs 0xF0 0x00 t && endsAt 0x0101 2 t) = true := by decide
theorem test_xor_n8 : stepGives (writeReg .a 0xFF <| start [0xEE, 0x0F])
    (fun t => afIs 0xF0 0x00 t && endsAt 0x0102 2 t) = true := by decide
theorem test_or_r : stepGives (writeReg .a 0x00 <| writeReg .b 0x00 <| writeReg .f 0x70 <| start [0xB0])
    (fun t => afIs 0x00 0x80 t && endsAt 0x0101 1 t) = true := by decide
theorem test_or_hl : stepGives (writeReg .a 0x40 <| writeHl 0xC000 <| busWrite 0xC000 0x0F <| writeReg .f 0x70 <| start [0xB6])
    (fun t => afIs 0x4F 0x00 t && endsAt 0x0101 2 t) = true := by decide
theorem test_or_n8 : stepGives (writeReg .a 0x40 <| start [0xF6, 0x0F])
    (fun t => afIs 0x4F 0x00 t && endsAt 0x0102 2 t) = true := by decide
theorem test_cp_r_half : stepGives (writeReg .a 0x3C <| writeReg .b 0x2F <| start [0xB8])
    (fun t => afIs 0x3C 0x60 t && endsAt 0x0101 1 t) = true := by decide
theorem test_cp_r_borrow : stepGives (writeReg .a 0x3C <| writeReg .b 0x40 <| start [0xB8])
    (fun t => afIs 0x3C 0x50 t && endsAt 0x0101 1 t) = true := by decide
theorem test_cp_hl : stepGives (writeReg .a 0x3C <| writeHl 0xC000 <| busWrite 0xC000 0x3C <| start [0xBE])
    (fun t => afIs 0x3C 0xC0 t && endsAt 0x0101 2 t) = true := by decide
theorem test_cp_n8 : stepGives (writeReg .a 0x90 <| start [0xFE, 0x90])
    (fun t => afIs 0x90 0xC0 t && endsAt 0x0102 2 t) = true := by decide
theorem test_inc_r_wraps : stepGives (writeReg .b 0xFF <| writeReg .f 0x10 <| start [0x04])
    (fun t => readReg .b t == 0x00 && readReg .f t == 0xB0 && endsAt 0x0101 1 t) = true := by decide
theorem test_inc_r_half : stepGives (writeReg .b 0x0F <| writeReg .f 0x00 <| start [0x04])
    (fun t => readReg .b t == 0x10 && readReg .f t == 0x20 && endsAt 0x0101 1 t) = true := by decide
theorem test_inc_hl : stepGives (writeHl 0xC000 <| busWrite 0xC000 0xFF <| writeReg .f 0x00 <| start [0x34])
    (fun t => busRead 0xC000 t == 0x00 && readReg .f t == 0xA0 && endsAt 0x0101 3 t) = true := by decide
theorem test_dec_r_zero : stepGives (writeReg .b 0x01 <| writeReg .f 0x00 <| start [0x05])
    (fun t => readReg .b t == 0x00 && readReg .f t == 0xC0 && endsAt 0x0101 1 t) = true := by decide
theorem test_dec_r_wraps : stepGives (writeReg .b 0x00 <| writeReg .f 0x10 <| start [0x05])
    (fun t => readReg .b t == 0xFF && readReg .f t == 0x70 && endsAt 0x0101 1 t) = true := by decide
theorem test_dec_hl : stepGives (writeHl 0xC000 <| busWrite 0xC000 0x10 <| writeReg .f 0x00 <| start [0x35])
    (fun t => busRead 0xC000 t == 0x0F && readReg .f t == 0x60 && endsAt 0x0101 3 t) = true := by decide
theorem test_daa_both : stepGives (writeReg .a 0x9A <| writeReg .f 0x00 <| start [0x27])
    (fun t => afIs 0x00 0x90 t && endsAt 0x0101 1 t) = true := by decide
theorem test_daa_after_sub : stepGives (writeReg .a 0x4B <| writeReg .f 0x60 <| start [0x27])
    (fun t => afIs 0x45 0x40 t && endsAt 0x0101 1 t) = true := by decide
theorem test_cpl : stepGives (writeReg .a 0x35 <| writeReg .f 0x00 <| start [0x2F])
    (fun t => afIs 0xCA 0x60 t && endsAt 0x0101 1 t) = true := by decide
theorem test_scf : stepGives (writeReg .f 0xE0 <| start [0x37])
    (fun t => afIs 0x01 0x90 t && endsAt 0x0101 1 t) = true := by decide
theorem test_ccf : stepGives (writeReg .f 0xF0 <| start [0x3F])
    (fun t => afIs 0x01 0x80 t && endsAt 0x0101 1 t) = true := by decide
theorem test_add_hl_bc : stepGives (writeHl 0x8A23 <| writeBc 0x0605 <| writeReg .f 0x80 <| start [0x09])
    (fun t => readHl t == 0x9028 && readReg .f t == 0xA0 && endsAt 0x0101 2 t) = true := by decide
theorem test_add_hl_sp : stepGives (writeHl 0xFFFF <| writeReg .f 0x80 <| { start [0x39] with sp := 0x0001 })
    (fun t => readHl t == 0x0000 && readReg .f t == 0xB0 && endsAt 0x0101 2 t) = true := by decide
theorem test_inc_bc : stepGives (writeBc 0xFFFF <| writeReg .f 0xA0 <| start [0x03])
    (fun t => readBc t == 0x0000 && readReg .f t == 0xA0 && endsAt 0x0101 2 t) = true := by decide
theorem test_dec_sp : stepGives ({ start [0x3B] with sp := 0x0000 })
    (fun t => t.sp == 0xFFFF && endsAt 0x0101 2 t) = true := by decide
theorem test_add_sp_plus : stepGives (writeReg .f 0xF0 <| { start [0xE8, 0x02] with sp := 0xFFF8 })
    (fun t => t.sp == 0xFFFA && readReg .f t == 0x00 && endsAt 0x0102 4 t) = true := by decide
theorem test_add_sp_minus : stepGives ({ start [0xE8, 0xFF] with sp := 0x0001 })
    (fun t => t.sp == 0x0000 && readReg .f t == 0x30 && endsAt 0x0102 4 t) = true := by decide
theorem test_rlca : stepGives (writeReg .a 0x85 <| start [0x07])
    (fun t => afIs 0x0B 0x10 t && endsAt 0x0101 1 t) = true := by decide
theorem test_rlca_zero : stepGives (writeReg .a 0x00 <| writeReg .f 0x80 <| start [0x07])
    (fun t => afIs 0x00 0x00 t && endsAt 0x0101 1 t) = true := by decide
theorem test_rla : stepGives (writeReg .a 0x95 <| writeReg .f 0x00 <| start [0x17])
    (fun t => afIs 0x2A 0x10 t && endsAt 0x0101 1 t) = true := by decide
theorem test_rrca : stepGives (writeReg .a 0x3B <| start [0x0F])
    (fun t => afIs 0x9D 0x10 t && endsAt 0x0101 1 t) = true := by decide
theorem test_rra : stepGives (writeReg .a 0x81 <| writeReg .f 0x00 <| start [0x1F])
    (fun t => afIs 0x40 0x10 t && endsAt 0x0101 1 t) = true := by decide
theorem test_rlc_r : stepGives (writeReg .b 0x80 <| start [0xCB, 0x00])
    (fun t => readReg .b t == 0x01 && readReg .f t == 0x10 && endsAt 0x0102 2 t) = true := by decide
theorem test_rlc_hl : stepGives (writeHl 0xC000 <| busWrite 0xC000 0x80 <| start [0xCB, 0x06])
    (fun t => busRead 0xC000 t == 0x01 && readReg .f t == 0x10 && endsAt 0x0102 4 t) = true := by decide
theorem test_rrc_r : stepGives (writeReg .c 0x01 <| start [0xCB, 0x09])
    (fun t => readReg .c t == 0x80 && readReg .f t == 0x10 && endsAt 0x0102 2 t) = true := by decide
theorem test_rrc_hl : stepGives (writeHl 0xC000 <| busWrite 0xC000 0x01 <| start [0xCB, 0x0E])
    (fun t => busRead 0xC000 t == 0x80 && readReg .f t == 0x10 && endsAt 0x0102 4 t) = true := by decide
theorem test_rl_r : stepGives (writeReg .b 0x80 <| writeReg .f 0x00 <| start [0xCB, 0x10])
    (fun t => readReg .b t == 0x00 && readReg .f t == 0x90 && endsAt 0x0102 2 t) = true := by decide
theorem test_rl_hl : stepGives (writeHl 0xC000 <| busWrite 0xC000 0x80 <| writeReg .f 0x10 <| start [0xCB, 0x16])
    (fun t => busRead 0xC000 t == 0x01 && readReg .f t == 0x10 && endsAt 0x0102 4 t) = true := by decide
theorem test_rr_r : stepGives (writeReg .a 0x01 <| writeReg .f 0x00 <| start [0xCB, 0x1F])
    (fun t => afIs 0x00 0x90 t && endsAt 0x0102 2 t) = true := by decide
theorem test_rr_hl : stepGives (writeHl 0xC000 <| busWrite 0xC000 0x01 <| writeReg .f 0x10 <| start [0xCB, 0x1E])
    (fun t => busRead 0xC000 t == 0x80 && readReg .f t == 0x10 && endsAt 0x0102 4 t) = true := by decide
theorem test_sla_r : stepGives (writeReg .b 0xFF <| start [0xCB, 0x20])
    (fun t => readReg .b t == 0xFE && readReg .f t == 0x10 && endsAt 0x0102 2 t) = true := by decide
theorem test_sla_hl : stepGives (writeHl 0xC000 <| busWrite 0xC000 0x80 <| writeReg .f 0x10 <| start [0xCB, 0x26])
    (fun t => busRead 0xC000 t == 0x00 && readReg .f t == 0x90 && endsAt 0x0102 4 t) = true := by decide
theorem test_sra_r : stepGives (writeReg .b 0x8A <| start [0xCB, 0x28])
    (fun t => readReg .b t == 0xC5 && readReg .f t == 0x00 && endsAt 0x0102 2 t) = true := by decide
theorem test_sra_hl : stepGives (writeHl 0xC000 <| busWrite 0xC000 0x8A <| start [0xCB, 0x2E])
    (fun t => busRead 0xC000 t == 0xC5 && readReg .f t == 0x00 && endsAt 0x0102 4 t) = true := by decide
theorem test_swap_r : stepGives (writeReg .a 0xF0 <| writeReg .f 0x70 <| start [0xCB, 0x37])
    (fun t => afIs 0x0F 0x00 t && endsAt 0x0102 2 t) = true := by decide
theorem test_swap_hl : stepGives (writeHl 0xC000 <| busWrite 0xC000 0x00 <| writeReg .f 0x70 <| start [0xCB, 0x36])
    (fun t => busRead 0xC000 t == 0x00 && readReg .f t == 0x80 && endsAt 0x0102 4 t) = true := by decide
theorem test_srl_r : stepGives (writeReg .b 0x01 <| start [0xCB, 0x38])
    (fun t => readReg .b t == 0x00 && readReg .f t == 0x90 && endsAt 0x0102 2 t) = true := by decide
theorem test_srl_hl : stepGives (writeHl 0xC000 <| busWrite 0xC000 0x81 <| start [0xCB, 0x3E])
    (fun t => busRead 0xC000 t == 0x40 && readReg .f t == 0x10 && endsAt 0x0102 4 t) = true := by decide
theorem test_bit_r_set : stepGives (writeReg .h 0x80 <| writeReg .f 0x10 <| start [0xCB, 0x7C])
    (fun t => readReg .h t == 0x80 && readReg .f t == 0x30 && endsAt 0x0102 2 t) = true := by decide
theorem test_bit_r_clear : stepGives (writeReg .a 0x00 <| writeReg .f 0x00 <| start [0xCB, 0x47])
    (fun t => afIs 0x00 0xA0 t && endsAt 0x0102 2 t) = true := by decide
theorem test_bit_hl : stepGives (writeHl 0xC000 <| busWrite 0xC000 0x08 <| writeReg .f 0x00 <| start [0xCB, 0x5E])
    (fun t => readReg .f t == 0x20 && endsAt 0x0102 3 t) = true := by decide
theorem test_res_r : stepGives (writeReg .a 0xFF <| writeReg .f 0xF0 <| start [0xCB, 0xBF])
    (fun t => afIs 0x7F 0xF0 t && endsAt 0x0102 2 t) = true := by decide
theorem test_res_hl : stepGives (writeHl 0xC000 <| busWrite 0xC000 0xFF <| writeReg .f 0xF0 <| start [0xCB, 0x96])
    (fun t => busRead 0xC000 t == 0xFB && readReg .f t == 0xF0 && endsAt 0x0102 4 t) = true := by decide
theorem test_set_r : stepGives (writeReg .c 0x00 <| writeReg .f 0x00 <| start [0xCB, 0xC9])
    (fun t => readReg .c t == 0x02 && readReg .f t == 0x00 && endsAt 0x0102 2 t) = true := by decide
theorem test_set_hl : stepGives (writeHl 0xC000 <| busWrite 0xC000 0x00 <| start [0xCB, 0xC6])
    (fun t => busRead 0xC000 t == 0x01 && endsAt 0x0102 4 t) = true := by decide
theorem test_jp : stepGives (start [0xC3, 0x50, 0x01])
    (fun t => t.sp == 0xFFFE && endsAt 0x0150 4 t) = true := by decide
theorem test_jp_c_taken : stepGives (writeReg .f 0x10 <| start [0xDA, 0x00, 0x02])
    (fun t => readReg .f t == 0x10 && endsAt 0x0200 4 t) = true := by decide
theorem test_jp_c_not : stepGives (writeReg .f 0x00 <| start [0xDA, 0x00, 0x02])
    (fun t => readReg .f t == 0x00 && endsAt 0x0103 3 t) = true := by decide
theorem test_jp_hl : stepGives (writeHl 0xC000 <| start [0xE9])
    (fun t => endsAt 0xC000 1 t) = true := by decide
theorem test_jr_back : stepGives (start [0x18, 0xFE])
    (fun t => endsAt 0x0100 3 t) = true := by decide
theorem test_jr_forward : stepGives (start [0x18, 0x7F])
    (fun t => endsAt 0x0181 3 t) = true := by decide
theorem test_jr_nz_taken : stepGives (writeReg .f 0x00 <| start [0x20, 0x05])
    (fun t => endsAt 0x0107 3 t) = true := by decide
theorem test_jr_nz_not : stepGives (writeReg .f 0x80 <| start [0x20, 0x05])
    (fun t => endsAt 0x0102 2 t) = true := by decide
theorem test_call : stepGives ({ start [0xCD, 0x34, 0x12] with sp := 0xFFFE })
    (fun t => t.sp == 0xFFFC && busRead 0xFFFD t == 0x01 && busRead 0xFFFC t == 0x03 && endsAt 0x1234 6 t) = true := by decide
theorem test_call_nz_taken : stepGives (writeReg .f 0x00 <| start [0xC4, 0x34, 0x12])
    (fun t => t.sp == 0xFFFC && busRead 0xFFFD t == 0x01 && busRead 0xFFFC t == 0x03 && endsAt 0x1234 6 t) = true := by decide
theorem test_call_nz_not : stepGives (writeReg .f 0x80 <| start [0xC4, 0x34, 0x12])
    (fun t => t.sp == 0xFFFE && endsAt 0x0103 3 t) = true := by decide
theorem test_ret : stepGives (busWrite 0xFFFC 0x34 <| busWrite 0xFFFD 0x12 <| { start [0xC9] with sp := 0xFFFC })
    (fun t => t.sp == 0xFFFE && endsAt 0x1234 4 t) = true := by decide
theorem test_ret_z_not : stepGives (writeReg .f 0x00 <| { start [0xC8] with sp := 0xFFFC })
    (fun t => t.sp == 0xFFFC && endsAt 0x0101 2 t) = true := by decide
theorem test_ret_z_taken : stepGives (writeReg .f 0x80 <| busWrite 0xFFFC 0x34 <| busWrite 0xFFFD 0x12 <| { start [0xC8] with sp := 0xFFFC })
    (fun t => t.sp == 0xFFFE && endsAt 0x1234 5 t) = true := by decide
theorem test_reti : stepGives (busWrite 0xFFFC 0x34 <| busWrite 0xFFFD 0x12 <| { start [0xD9] with sp := 0xFFFC })
    (fun t => t.sp == 0xFFFE && t.ime == true && endsAt 0x1234 4 t) = true := by decide
theorem test_rst_38 : stepGives ({ start [0xFF] with sp := 0xFFFE })
    (fun t => t.sp == 0xFFFC && busRead 0xFFFD t == 0x01 && busRead 0xFFFC t == 0x01 && endsAt 0x0038 4 t) = true := by decide
theorem test_nop : stepGives (start [0x00])
    (fun t => afIs 0x01 0xB0 t && endsAt 0x0101 1 t) = true := by decide
/-! ### System and faults -/

theorem test_illegal_faults : stepGives (start [0xD3]) (fun t =>
    decide (t.fault = some (.illegalOpcode 0x0100 0xD3)) && t.pc == 0x0100 && afIs 0x01 0xB0 t) = true := by decide
theorem test_stop_faults : stepGives (start [0x10, 0x00]) (fun t =>
    decide (t.fault = some (.stopUnmodelled 0x0100)) && t.pc == 0x0100) = true := by decide
theorem test_halt_suspends : stepGives (start [0x76]) (fun t => t.pc == 0x0101 && finalHalt t) = true := by decide
/-- NOP, HALT: the run ends after the cycle of the HALT, the second one, and not before (R931). -/
theorem test_final_halt_ends : (runToFinalHalt 1 (start [0x00, 0x76])).isNone = true ∧
    (runToFinalHalt 2 (start [0x00, 0x76])).any (fun t => decide (t.cycles = 2) && t.pc == 0x0102) = true := by decide
/-- A HALT that IE may wake, and a fault, are no final halt; OAM is not observable while a copy runs (R931). -/
theorem test_final_halt_not : (runToFinalHalt 1 { start [0x76] with ie := 0x10 }).isNone = true ∧
    (runToFinalHalt 2 (start [0xD3])).isNone = true ∧ (finalHaltView (start [])).oam = some [] ∧
    (finalHaltView (busWrite 0xFF46 0xC0 (start []))).oam = none := by decide
theorem test_halt_bug : stepGives { startWith [0x76, 0x3C] true true with ie := 0x01 } (fun t =>
    t.haltBugPending && endsAt 0x0101 1 t) = true := by decide
/-- The byte after the bugged HALT is executed with the pc one too low (R610), so it executes again. -/
theorem test_halt_bug_fetch : stepGives
    { startWith [0x76, 0x3C] true true with pc := 0x0101, haltBugPending := true }
    (fun t => !t.haltBugPending && readReg .a t == 0x02 && endsAt 0x0101 1 t) = true := by decide
/-- A fault leaves pc at the opcode and nothing else changed, at a HALT-bug fetch too (R702). -/
theorem test_fault_at_halt_bug_fetch : stepGives
    { startWith [0x76, 0xD3] true true with pc := 0x0101, haltBugPending := true }
    (fun t => t.fault.isSome && t.pc == 0x0101 && t.haltBugPending) = true := by decide
/-- A halted CPU wakes without service when IME = 0 (R609): INC A runs in the cycle it wakes in. -/
theorem test_wake_without_service : stepGives
    { start [0x76, 0x3C] with pc := 0x0101, nextCycle := .halted, ie := 0x01 }
    (fun t => readReg .a t == 0x02 && endsAt 0x0102 1 t) = true := by decide
theorem test_di : stepGives { start [0xF3] with ime := true, imePending := true } (fun t =>
    !t.ime && !t.imePending && endsAt 0x0101 1 t) = true := by decide
theorem test_ei_delayed : stepGives (start [0xFB]) (fun t => !t.ime && t.imePending && endsAt 0x0101 1 t) = true := by
  decide
theorem test_ei_at_once : stepGives (startWith [0xFB] false false) (fun t =>
    t.ime && !t.imePending && endsAt 0x0101 1 t) = true := by decide
theorem test_ei_promotion : stepGives { start [0x00] with imePending := true } (fun t => t.ime && !t.imePending) = true := by
  decide

/-! ### Interrupts -/

/-- The vector "priority": the timer interrupt is serviced before JOYPAD (R723, R730). -/
theorem test_service_priority : stepGives { start [0x00] with ie := 0x1F, iflag := 0x14, ime := true } (fun t =>
    endsAt 0x0050 5 t && t.iflag == 0x10 && !t.ime && t.sp == 0xFFFC && busRead 0xFFFD t == 0x01 &&
    busRead 0xFFFC t == 0x00) = true := by decide
/-- A service at the boundary of a HALT-bug fetch pushes the HALT's own address (R610, R730). -/
theorem test_service_haltBug : stepGives
    { startWith [0xFB, 0x76] true true with pc := 0x0102, ie := 0x01, ime := true, haltBugPending := true } (fun t =>
    endsAt 0x0040 5 t && busRead 0xFFFD t == 0x01 && busRead 0xFFFC t == 0x01 && !t.haltBugPending) = true := by decide

/-! ### Timer -/

def withTimer (tcount : Word) (tima tma : Byte) (tac : BitVec 3) : State :=
  { start [] with timer := { tcount := tcount, tima := tima, tma := tma, tac := tac }, iflag := 0 }

/-- S8: one falling edge reloads TIMA and requests one timer interrupt. -/
theorem test_timer_overflow : stepGives (withTimer 0x003C 0xFF 0x42 6) (fun t =>
    t.timer.tima == 0x42 && t.iflag == 0x04 && t.timer.tcount == 0x0040) = true := by decide
theorem test_timer_div_write : (busWrite 0xFF04 0x99 (withTimer 0x0200 0x10 0 4)).timer =
    { tcount := 0, tima := 0x11, tma := 0, tac := 4 } := by decide
theorem test_timer_div_write_clear : (busWrite 0xFF04 0x99 (withTimer 0x01FC 0x10 0 4)).timer.tima = 0x10 := by decide
theorem test_timer_tac_writes : (busWrite 0xFF07 0x05 (withTimer 0x0020 0x10 0 6)).timer.tima = 0x11 ∧
    (busWrite 0xFF07 0x02 (withTimer 0x0020 0x10 0 6)).timer.tima = 0x11 ∧
    (busWrite 0xFF07 0x07 (withTimer 0x0020 0x10 0 6)).timer.tima = 0x11 := by decide
theorem test_timer_reads : busRead 0xFF04 (start []) = 0xAB ∧ busRead 0xFF07 (withTimer 0 0 0 6) = 0xFE := by decide

/-! ### Display -/

/-- A state with the display at the given line, mode and next cycle, at cycle 0. -/
def atLine (ly : Byte) (mode : LcdMode) (statEn : BitVec 4) : State :=
  let s := start []
  { s with lcd := { s.lcd with ly := ly, mode := mode, lcdNext := .cycle 0, statEn := statEn }, iflag := 0 }

theorem test_lcd_start : busRead 0xFF41 (lcdStep (start [])) = 0x86 ∧
    (lcdStep (start [])).lcd.lcdNext = .cycle 20 := by decide
theorem test_lcd_vblank : let t := lcdStep (atLine 143 .hblank 0)
    t.lcd.ly = 144 ∧ t.iflag = 1 ∧ busRead 0xFF41 t = 0x81 ∧ t.lcd.lcdNext = .cycle 114 := by decide
theorem test_lcd_next_frame : let t := lcdStep (atLine 153 .vblank 0)
    t.lcd.ly = 0 ∧ t.iflag = 0 ∧ busRead 0xFF41 t = 0x86 ∧ t.lcd.lcdNext = .cycle 20 := by decide
theorem test_lcd_hblank_interrupt : (lcdStep (atLine 0 .transfer 1)).iflag = 2 := by decide
/-- S9: clearing the enable bit forces line 0 and mode 0, and raises nothing. -/
theorem test_lcd_stop : let t := busWrite 0xFF40 0x11 (atLine 43 .transfer 1)
    busRead 0xFF44 t = 0 ∧ busRead 0xFF41 t = 0x8C ∧ t.iflag = 0 := by decide
/-- S10: the match bit and its request on a change of LYC. -/
theorem test_lyc_match : let t := busWrite 0xFF45 0x02 (atLine 2 .oamScan 8)
    busRead 0xFF41 t = 0xC6 ∧ t.iflag = 2 := by decide
theorem test_stat_write_requests_nothing : (busWrite 0xFF41 0x40 (start [])).iflag = 1 ∧
    busRead 0xFF44 (busWrite 0xFF44 0x55 (start [])) = 0 := by decide

/-- A display with the given LCDC, palettes BGP and OBP0, video RAM and OAM cells. -/
def lcdWith (lcdc bgp obp0 : Byte) (vram oam : List Host.Cell) : Lcd :=
  { Lcd.reset (memOfCells 8192 vram) (memOfCells 160 oam) with lcdc := lcdc, bgp := bgp, obp0 := obp0 }

/-- mapColors by the palettes E4, 1B and FC on the indices 0, 1, 2, 3. -/
theorem test_mapColors : let p : PixelLine 4 := { msb := 0b1100, lsb := 0b1010, opacity := 0 }
    let colors (q : Byte) := (List.range 4).map (pixelColor (mapColors p q))
    colors 0xE4 = [0, 1, 2, 3] ∧ colors 0x1B = [3, 2, 1, 0] ∧ colors 0xFC = [0, 3, 3, 3] := by decide
theorem test_background_pixel : let l := lcdWith 0x91 0xFC 0 [(0, 0xFF)] []
    pixelColor (renderLine l 0) 0 = 3 ∧ pixelColor (renderLine l 8) 159 = 3 ∧ pixelColor (renderLine l 1) 0 = 0 := by
  decide
/-- The vector "horizontal wrap": SCX = 4. -/
theorem test_horizontal_wrap : let l := { lcdWith 0x91 0xE4 0 [(0, 0xF0)] [] with scx := 4 }
    (List.range 9).map (pixelColor (renderLine l 0)) = [0, 0, 0, 0, 1, 1, 1, 1, 0] := by decide
theorem test_sprite_over_background :
    let l := lcdWith 0x93 0xE4 0xE4 [(0x10, 0x80), (0x11, 0x80)] [(0, 0x10), (1, 0x08), (2, 0x01)]
    pixelColor (renderLine l 0) 0 = 3 ∧ pixelColor (renderLine l 0) 1 = 0 := by decide
theorem test_sprite_behind_background :
    let oam : List Host.Cell := [(0, 0x10), (1, 0x08), (2, 0x01), (3, 0x80)]
    pixelColor (renderLine (lcdWith 0x93 0xE4 0xE4 [(0, 0x80), (0x10, 0x80), (0x11, 0x80)] oam) 0) 0 = 1 ∧
    pixelColor (renderLine (lcdWith 0x93 0xE4 0xE4 [(0x10, 0x80), (0x11, 0x80)] oam) 0) 0 = 3 ∧
    pixelColor (renderLine (lcdWith 0x92 0xE4 0xE4 [(0, 0x80), (0x10, 0x80), (0x11, 0x80)] oam) 0) 0 = 3 := by decide
/-- The window from the second map, on from column WX - 7 = 3; column 3 shows its column 0. -/
theorem test_window_pixel : let l := { lcdWith 0xF1 0xE4 0 [(0x10, 0x80), (0x1C00, 1)] [] with wx := 10 }
    (List.range 5).map (pixelColor (renderLine l 0)) = [0, 0, 0, 1, 0] ∧ nextWinLine l 0 = 1 := by decide
/-- FLIP_X, FLIP_Y and the palette OBP1, and the sprite of smaller X over one of larger X. -/
theorem test_sprite_flips_and_priority :
    pixelColor (renderLine { lcdWith 0x93 0xE4 0 [(0x1E, 0x80)] [(0, 0x10), (1, 0x08), (2, 0x01), (3, 0x70)] with
      obp1 := 0x08 } 0) 7 = 2 ∧
    pixelColor (renderLine (lcdWith 0x93 0xE4 0xE4 [(0x10, 0xFF), (0x20, 0xFF), (0x21, 0xFF)]
      [(0, 0x10), (1, 0x09), (2, 0x01), (4, 0x10), (5, 0x08), (6, 0x02)]) 0) 1 = 3 := by decide
theorem test_serialize_line : serializeLine { msb := 1, lsb := 1, opacity := 0 } =
    1 :: List.replicate 19 0 ++ 1 :: List.replicate 19 0 := by decide

/-- S3, the vector laws on 0x000000F1, and the refusal of unequal lengths. -/
theorem test_vector_laws : let v : AnyVector := { length := 32, bits := 0x000000F1 }
    anyNot v = { length := 32, bits := 0xFFFFFF0E } ∧ anyNot (anyNot v) = v ∧ anyAnd? v v = some v ∧
    anyOr? v (anyNot v) = some { length := 32, bits := 0xFFFFFFFF } ∧ shiftBits v.bits 0 = v.bits ∧
    anyAnd? v { length := 64, bits := 0 } = none := by decide

/-- The bit algebra of R13: values by its formulas, and the arguments it rejects. -/
theorem test_bit_algebra : bitMask? 8 7 = some 128 ∧ bitMask? 8 8 = none ∧ bitMask? 64 40 = none ∧
    testBit? 8 0x80 7 = some true ∧ testBit? 8 0x100 0 = none ∧ setBit? 8 0x0F 0 false = some 0x0E ∧
    setBit? 33 0 0 true = none ∧ clip? 4 0xAB = some 0xB ∧ clip? 4 (2 ^ 40) = none ∧ clip? 33 0 = none ∧
    extract? 0xABCD 4 8 = some 0xBC ∧ extract? 1 32 0 = none ∧ extract? (2 ^ 32) 0 1 = none ∧
    rotate? 8 0x81 1 = some 0x03 ∧ rotate? 8 0x81 (-1) = some 0xC0 ∧ rotate? 8 0x100 1 = none ∧
    signExtend8? 0x80 = some 0xFFFFFF80 ∧ signExtend8? 0x100 = none ∧ reverse8? 0x01 = some 0x80 ∧
    reverse8? 0x100 = none := by decide

/-! ### OAM DMA -/

/-- "copy from C000": byte 0 of the copy, and its last. -/
theorem test_dma_copies : let s := busWrite 0xFF46 0xC0 (busWrite 0xC000 0x5A (busWrite 0xC09F 0xC5 (start [])))
    s.lcd.dmaIndex = 0 ∧ busRead 0xFE00 (dmaStep s) = 0x5A ∧
    (let t := dmaStep { s with lcd := { s.lcd with dmaIndex := 159 } }
     busRead 0xFE9F t = 0xC5 ∧ t.lcd.dmaIndex = 160) := by decide

/-! ### Bus, boot ROM and cartridge -/

/-- S1 and S2. -/
theorem test_bus_laws : busRead 0xC123 (busWrite 0xC123 0x5A (start [])) = 0x5A ∧
    busRead 0xFEA0 (busWrite 0xFEA0 0x12 (start [])) = 0xFF ∧ busRead 0xFF00 (busWrite 0xFF00 0x30 (start [])) = 0xFF ∧
    busRead 0x0000 (busWrite 0x0000 0x12 (start [])) = 0x00 ∧ busRead 0xE000 (busWrite 0xC000 0x77 (start [])) = 0x77 ∧
    busRead 0xDDFF (busWrite 0xFDFF 0x31 (start [])) = 0x31 := by decide

/-- An MBC1 launch: byte k of ROM bank b at its start is b, `ram` the RAM size's header byte. -/
def mbc1Cart (romSize : Nat) (ramCode : Byte) : Cart :=
  match loadCart romSize [(0x147, 0x03), (0x149, ramCode), (0x4000, 1), (0x14000, 5), (0x84000, 0x21)] [] with
  | .ok c => c
  | .error _ => Cart.blank

def mbc1State (romSize : Nat) (ramCode : Byte) : State := { start [] with cart := mbc1Cart romSize ramCode }

theorem test_mbc1_banks : busRead 0x4000 (busWrite 0x2000 0x00 (mbc1State 131072 0)) = 1 ∧
    busRead 0x4000 (busWrite 0x2000 0x05 (mbc1State 131072 0)) = 5 ∧
    busRead 0x4000 (busWrite 0x2000 0x20 (busWrite 0x4000 0x01 (mbc1State 1048576 0))) = 0x21 := by decide
theorem test_mbc1_ram : busRead 0xA000 (busWrite 0xA000 0x12 (mbc1State 131072 2)) = 0xFF ∧
    busRead 0xA000 (busWrite 0xA000 0x12 (busWrite 0x0000 0x0A (mbc1State 131072 2))) = 0x12 := by decide
theorem test_mbc0_write_ignored : (busWrite 0x2000 0x05 (start [])).cart = (start []).cart := by decide
theorem test_load_refused : (match loadCart 32768 [(0x147, 0x05)] [] with
    | .error r => decide (r = .cartridgeUnsupported 0x05 32768)
    | .ok _ => false) = true := by decide
theorem test_boot_rom : busRead 0x00FF { start [] with bootDisabled := false, bootRom := [(0xFF, 0x50)] } = 0x50 ∧
    busRead 0x00FF (busWrite 0xFF50 0x00 { start [] with bootDisabled := false, bootRom := [(0xFF, 0x50)] }) = 0x00 := by
  decide

/-! ### Reset, and a row's instruction as the first one after it -/

theorem test_reset : State.reset.pc = 0 ∧ State.reset.sp = 0 ∧ State.reset.cart.romBank5 = 1 ∧
    State.reset.lcd.dmaIndex = 160 ∧ State.reset.nextCycle = .cycle 0 := by decide
theorem test_post_boot : busRead 0xFF0F (start []) = 0xE1 ∧ readAf (start []) = 0x01B0 ∧ readHl (start []) = 0x014D := by
  decide
theorem test_first_instruction : stepGives (State.reset.withFetchWord 8 0x04) (fun t =>
    readReg .b t == 0x01 && endsAt 0x0001 1 t) = true := by decide
theorem test_first_instruction_prefixed : stepGives (State.reset.withFetchWord 16 0xCBC1) (fun t =>
    readReg .c t == 0x01 && endsAt 0x0002 2 t) = true := by decide
theorem test_first_instruction_halt : stepGives (State.reset.withFetchWord 8 0x76) (fun t =>
    decide (t.nextCycle = .halted)) = true := by decide
/-! ## Witnesses: a concrete state and operands that meet the hypotheses of each statement that has any -/

/-- The state at the CPU's step of the next cycle. -/
def atCpu (s : State) : State := wake (devicesStep s)

/-- At a boundary that executes an instruction. -/
def executing (s : State) : Bool := decide (s.fault = none) && atBoundary (atCpu s) && !serviceDue (atCpu s)

theorem witness_DecodeOfEncode : (Instr.illegal 0xD3).wellFormed = true ∧ (Instr.jpCc .c 0xFFFF).wellFormed = true := by
  decide

theorem witness_StepRunsDecoded : let s := start [0x3E, 0xC0]
    let d := wake (devicesStep s)
    s.fault = none ∧ atBoundary d = true ∧ serviceDue d = false ∧ d.haltBugPending = false ∧
    decode [busRead d.pc d, busRead (d.pc + 1) d, busRead (d.pc + 2) d] = .ok (.ldRN .a 0xC0, [0x00]) := by decide

theorem witness_HaltBugFetch_executes : let s : State := { startWith [0x76, 0x3C] true true with pc := 0x0101, haltBugPending := true }
    let d := wake (devicesStep s)
    s.fault = none ∧ atBoundary d = true ∧ d.haltBugPending = true ∧ serviceDue d = false ∧
    decode [busRead d.pc d, busRead (d.pc - 1 + 1) d, busRead (d.pc - 1 + 2) d] = .ok (.incR .a, [0x3C, 0x00]) ∧
    stepGives s (fun t => decide (t.fault = none)) = true := by decide

theorem witness_HaltBugFetch_services :
    let s : State := { startWith [0x76] true true with pc := 0x0101, haltBugPending := true, ie := 0x01, ime := true }
    let d := wake (devicesStep s)
    s.fault = none ∧ atBoundary d = true ∧ d.haltBugPending = true ∧ serviceDue d = true := by decide

theorem witness_InterruptService : let s : State := { start [0x00] with ie := 0x10, iflag := 0x10, ime := true }
    let d := wake (devicesStep s)
    s.fault = none ∧ atBoundary d = true ∧ serviceDue d = true := by decide

theorem witness_IdleAndHaltedCpu :
    let idle : State := { start [] with nextCycle := .cycle 1 }
    let asleep : State := { start [] with nextCycle := .halted, ie := 0xE0 }
    let woken : State := { start [] with nextCycle := .halted, ie := 0x01 }
    (idle.fault = none ∧ (devicesStep idle).nextCycle = .cycle 1 ∧ 1 ≠ (devicesStep idle).cycles) ∧
    (asleep.fault = none ∧ (devicesStep asleep).nextCycle = .halted ∧
      (devicesStep asleep).ie.setWidth 5 &&& (devicesStep asleep).iflag = 0) ∧
    (woken.fault = none ∧ (devicesStep woken).nextCycle = .halted ∧
      (devicesStep woken).ie.setWidth 5 &&& (devicesStep woken).iflag ≠ 0) := by decide

theorem witness_StepAlwaysAnswers : (start [0xD3]).fault = none := by decide

/-- Each case of the instruction: it leaves the enable pending (NOP), cancels it (DI), faults (an illegal code). -/
theorem witness_EiPromotion :
    (let s : State := { start [0x00] with imePending := true }
     executing s = true ∧ (atCpu s).imePending = true ∧ stepGives s (fun t => decide (t.fault = none)) = true ∧
     ∃ u, exec (fetchInstr (atCpu s)) { atCpu s with pc := fetchBase (atCpu s) } = .next u ∧ u.fault = none ∧ u.imePending = true) ∧
    (let s : State := { start [0xF3] with imePending := true }
     executing s = true ∧
     ∃ u, exec (fetchInstr (atCpu s)) { atCpu s with pc := fetchBase (atCpu s) } = .next u ∧ u.imePending = false) ∧
    (let s : State := { start [0xD3] with imePending := true }
     executing s = true ∧
     ∃ u, exec (fetchInstr (atCpu s)) { atCpu s with pc := fetchBase (atCpu s) } = .next u ∧ u.fault ≠ none) ∧
    (let s := startWith [0xFB] false false
     s.params.eiDelay = false ∧ s.imePending = false ∧ stepGives s (fun _ => true) = true) := by
  refine ⟨⟨by decide, by decide, by decide, _, rfl, rfl, rfl⟩, ⟨by decide, _, rfl, rfl⟩,
    ⟨by decide, _, rfl, by decide⟩, by decide⟩

/-- The invariant holds of a state that is not the one after reset, and it steps. -/
theorem witness_StepKeepsInvariant : (start [0x00]).Inv ∧ ∃ t, step (start [0x00]) = .next t := by
  refine ⟨⟨⟨?_, ?_, ?_, ?_, ?_, ?_, ?_⟩, ⟨?_, ?_, ?_, ?_⟩, ⟨?_, ?_, ?_, ?_⟩, ⟨fun _ n hn => ?_, fun n hn => ?_, ?_, ?_⟩⟩,
    (exists_of_stepGives (check := fun _ => true) (by decide)).imp fun _ h => h.1⟩
  all_goals first | decide | exact Nat.zero_le _

/-- The cartridge part of the invariant holds of an MBC1 cartridge with RAM. -/
theorem witness_CartOk : (mbc1Cart 131072 3).kind = .mbc1 ∧ CartOk (mbc1Cart 131072 3) :=
  ⟨by decide, by decide, by decide, by decide, by decide⟩

/-- The cartridge of the vectors' launch. -/
def vectorCart : Cart := freshCart .mbc0 32768 (memOfCells 32768 (vectorLaunch [0x00] true false).cart) 0 []

theorem vector_loads : loadCart (vectorLaunch [0x00] true false).romSize (vectorLaunch [0x00] true false).cart
    (vectorLaunch [0x00] true false).initCartRam = .ok vectorCart := by decide

theorem witness_construct : (vectorLaunch [0x00] true false).bootMode = .postBoot ∧
    construct (vectorLaunch [0x00] true false) = .ok (start [0x00]) ∧
    (let l : Launch := { vectorLaunch [0x00] true false with bootMode := .runBootRom }
     l.bootMode = .runBootRom ∧ construct l = .ok (bootRomState l vectorCart)) := by
  refine ⟨rfl, ?_, rfl, ?_⟩
  · unfold construct
    rw [vector_loads]
    rfl
  · unfold construct
    rw [show loadCart _ _ _ = _ from vector_loads]

theorem witness_StepKeepsRomsAndLatch : stepGives (start [0x00]) (fun _ => true) = true ∧
    (start [0x00]).bootDisabled = true := by decide

theorem witness_EchoMirrorsWorkRam :
    (0xE000 ≤ (0xE000 : Word).toNat ∧ (0xE000 : Word).toNat < 0xFE00) ∧
    (0xE000 ≤ (0xFDFF : Word).toNat ∧ (0xFDFF : Word).toNat < 0xFE00) ∧
    (0xC000 ≤ (0xC000 : Word).toNat ∧ (0xC000 : Word).toNat < 0xE000) ∧
    (0xC000 ≤ (0xDFFF : Word).toNat ∧ (0xDFFF : Word).toNat < 0xE000) := by decide

theorem witness_UnclaimedAddresses : ([0xA000, 0xBFFF, 0xFEA0, 0xFF03, 0xFF08, 0xFF0E, 0xFF10, 0xFF3F, 0xFF4C, 0xFF50,
    0xFF7F] : List Word).all (unclaimed (start [])) = true := by decide

theorem witness_ReadAfterWrite : ([0x8000, 0x9FFF, 0xC000, 0xFE9F, 0xFF05, 0xFF06, 0xFF40, 0xFF4B, 0xFF80,
    0xFFFF] : List Word).all (storesByte (start [])) = true ∧
    ([0xA000, 0xBFFF] : List Word).all (storesByte (busWrite 0x0000 0x0A (mbc1State 131072 3))) = true := by decide

theorem witness_WriteReachesOnlyItsAddresses : let s := mbc1State 131072 3
    writeReaches s 0xC000 0xC001 = false ∧ writeReaches s 0x2000 0x3FFF = false ∧ writeReaches s 0xFF40 0xFF45 = false ∧
    writeReaches s 0xA000 0xA001 = false := by decide

theorem witness_BootRomMultiplexer : (State.reset.bootDisabled = false ∧ (0x00FF : Word).toNat ≤ 0xFF) ∧
    ((start []).bootDisabled = true ∧ (0x0000 : Word).toNat ≤ 0x7FFF) ∧
    (0xFF < (0x0100 : Word).toNat ∧ (0x0100 : Word).toNat ≤ 0x7FFF) ∧
    (0xA000 ≤ (0xBFFF : Word).toNat ∧ (0xBFFF : Word).toNat ≤ 0xBFFF) ∧
    (0x7FFF < (0x8000 : Word).toNat ∧ ¬ (0xA000 ≤ (0x8000 : Word).toNat ∧ (0x8000 : Word).toNat ≤ 0xBFFF)) ∧
    (0xFF51 : Word) ≠ 0xFF50 := by decide

theorem witness_Mbc1Banking : let s := mbc1State 131072 3
    let open_ := busWrite 0x0000 0x0A s
    s.cart.kind = .mbc1 ∧ (0x1FFF : Word).toNat < 0x2000 ∧
    (0x2000 ≤ (0x3FFF : Word).toNat ∧ (0x3FFF : Word).toNat < 0x4000) ∧
    (0x4000 ≤ (0x5FFF : Word).toNat ∧ (0x5FFF : Word).toNat < 0x6000) ∧
    (0x6000 ≤ (0x7FFF : Word).toNat ∧ (0x7FFF : Word).toNat < 0x8000) ∧
    ((0x3FFF : Word).toNat < 0x4000 ∧ s.bootDisabled = true) ∧
    (0x4000 ≤ (0x7FFF : Word).toNat ∧ (0x7FFF : Word).toNat < 0x8000) ∧
    (0xA000 ≤ (0xBFFF : Word).toNat ∧ (0xBFFF : Word).toNat < 0xC000) ∧ s.cart.ramEnable = false ∧
    (open_.cart.kind = .mbc1 ∧ open_.cart.ramEnable = true ∧ open_.cart.ramSize ≠ 0) ∧
    (0x8000 ≤ (0xC000 : Word).toNat ∧ ¬ (0xA000 ≤ (0xC000 : Word).toNat ∧ (0xC000 : Word).toNat < 0xC000)) ∧
    s.cart.romBank5 ≠ 0 := by decide

/-- Each clause of the loader: unbanked, banked at both ends of the sizes, refused. -/
theorem witness_CartridgeLoad : (0x150 ≤ 32768 ∧ memRead (memOfCells 32768 []) 0x147 = 0) ∧
    (let rom := memOfCells (2 ^ 21) [(0x147, 0x01), (0x149, 0x03)]
     0x150 ≤ 2 ^ 21 ∧ (memRead rom 0x147 = 1 ∨ memRead rom 0x147 = 2 ∨ memRead rom 0x147 = 3) ∧
     (memRead rom 0x149).toNat ≤ 3 ∧ (15 ≤ 21 ∧ 21 ≤ 21)) ∧
    (¬ (0x150 ≤ 0x147) ∧ ¬ (0x150 ≤ 0x14F) ∧ 0x148 ≤ 0x14F ∧ ∃ l : Launch, l.romSize = 0x14F ∧ l.cart = []) := by
  refine ⟨by decide, by decide, by decide, by decide, by decide, { vectorLaunch [] true false with romSize := 0x14F, cart := [] }, rfl, rfl⟩

/-- No edge; an edge that counts; an edge that reloads. -/
theorem witness_TimerMoves : let quiet := withTimer 0 0 0 4
    let counts := withTimer 0x003C 0x10 0 6
    let reloads := withTimer 0x003C 0xFF 0x42 6
    ¬ (timerState quiet.timer = true ∧ timerState (timerStep quiet).timer = false) ∧
    (timerState counts.timer = true ∧ timerState (timerStep counts).timer = false ∧ counts.timer.tima ≠ 0xFF) ∧
    (timerState reloads.timer = true ∧ timerState (timerStep reloads).timer = false ∧ reloads.timer.tima = 0xFF) := by
  decide

theorem witness_ScanlineSchedule : let on (ly : Byte) (m : LcdMode) := (atLine ly m 0).lcd
    (lcdcBit State.reset.lcd 7 = false) ∧ (lcdcBit (start []).lcd 7 = true ∧ (start []).lcd.lcdNext = .halted) ∧
    (lcdcBit (on 0 .hblank) 7 = true ∧ (on 0 .hblank).lcdNext = .cycle 0 ∧ 0 = (start []).cycles) ∧
    ((lcdStep (start [])).lcd.lcdNext = .cycle 20 ∧ 20 ≠ (lcdStep (start [])).cycles) ∧
    (LcdOk (on 0 .oamScan) ∧ LcdOk (on 143 .oamScan) ∧ (on 143 .oamScan).mode = .oamScan) ∧
    (LcdOk (on 143 .transfer) ∧ (on 143 .transfer).mode = .transfer) ∧
    (LcdOk (on 143 .hblank) ∧ (on 143 .hblank).mode = .hblank ∧ (on 143 .hblank).ly = 143) ∧
    (LcdOk (on 142 .hblank) ∧ (on 142 .hblank).ly ≠ 143) ∧
    (LcdOk (on 153 .vblank) ∧ (on 153 .vblank).mode = .vblank ∧ (on 153 .vblank).ly = 153) ∧
    (LcdOk (on 144 .vblank) ∧ (on 144 .vblank).ly ≠ 153) := by
  refine ⟨by decide, by decide, by decide, by decide, ⟨⟨?_, ?_, ?_, ?_⟩, ⟨?_, ?_, ?_, ?_⟩, ?_⟩, ⟨⟨?_, ?_, ?_, ?_⟩, ?_⟩,
    ⟨⟨?_, ?_, ?_, ?_⟩, ?_⟩, ⟨⟨?_, ?_, ?_, ?_⟩, ?_⟩, ⟨⟨?_, ?_, ?_, ?_⟩, ?_⟩, ⟨⟨?_, ?_, ?_, ?_⟩, ?_⟩⟩ <;> decide

theorem witness_DisplayStartAndStop : (lcdcBit (start []).lcd 7 = true ∧ (start []).lcd.lcdNext = .halted) ∧
    (0x11 : Byte).getLsbD 7 = false ∧ (0x91 : Byte).getLsbD 7 = true ∧ lcdcBit State.reset.lcd 7 = false ∧
    LcdOk State.reset.lcd ∧ (0x8000 ≤ (0x9FFF : Word).toNat ∧ (0x9FFF : Word).toNat < 0xA000) ∧
    (0xFE00 ≤ (0xFE9F : Word).toNat ∧ (0xFE9F : Word).toNat < 0xFEA0) :=
  ⟨by decide, by decide, by decide, by decide, ⟨by decide, by decide, by decide, by decide⟩, by decide, by decide⟩

theorem witness_OamDmaCopiesOneByte : (busWrite 0xFF46 0xC0 (start [])).lcd.dmaIndex < 160 ∧ 159 < 160 ∧
    160 ≤ (start []).lcd.dmaIndex ∧ (1 : Nat) ≠ (busWrite 0xFF46 0xC0 (start [])).lcd.dmaIndex := by decide

theorem witness_VectorExtraction : 0 < 160 ∧ 159 < 160 ∧ 159 < 256 := by decide
theorem witness_PaletteMapping : (159 : Nat) < 160 := by decide
theorem witness_BackgroundPixels : (0 : Nat) < 160 ∧ (159 : Nat) < 160 := by decide
/-- The window drawn, at both ends of WX and at its first and last column; not drawn on line 0 for WY = 1; a layer with
an opaque pixel and one without. -/
theorem witness_LineComposition : (159 : Nat) < 160 ∧ lcdcBit (lcdWith 0x92 0 0 [] []) 0 = false ∧
    (let l (wx : Byte) := { lcdWith 0xB1 0xE4 0 [] [] with wx := wx }
     windowDrawn (l 7) 0 = true ∧ (l 7).wx.toNat ≤ 0 + 7 ∧ windowDrawn (l 166) 143 = true ∧ (l 166).wx.toNat ≤ 159 + 7 ∧
     ¬ (l 166).wx.toNat ≤ 158 + 7 ∧ windowDrawn (l 6) 0 = false ∧ windowDrawn (l 167) 0 = false ∧
     windowDrawn { l 7 with wy := 1 } 0 = false ∧ lcdcBit (l 7) 0 = true) ∧
    (let l := lcdWith 0x93 0xE4 0xE4 [(0x10, 0x80)] [(0, 0x10), (1, 0x08), (2, 0x01)]
     let first (x : Nat) := ((selectSprites l 0).filter (fun e => e.attr.getLsbD 7 == false)).find?
       (fun e => (spriteLine l 0 e).opacity.getLsbD x)
     first 0 = some { y := 0x10, x := 0x08, tile := 0x01, attr := 0 } ∧ first 1 = none) := by decide
theorem witness_SpriteSelection : lcdcBit (lcdWith 0x91 0 0 [] []) 1 = false ∧ lcdcBit (lcdWith 0x93 0 0 [] []) 1 = true ∧
    168 ≤ (spriteAt (lcdWith 0x93 0 0 [] [(1, 168)]) 0).x.toNat ∧ (spriteAt (lcdWith 0x93 0 0 [] []) 0).x = 0 ∧
    (let e : Sprite := { y := 0x10, x := 0x08, tile := 0x01, attr := 0x60 }
     let on (y : Byte) : Bool := decide ((e.y.toNat : Int) - 16 ≤ y.toNat) &&
       decide ((y.toNat : Int) < (e.y.toNat : Int) - 16 + spriteHeight (lcdWith 0x97 0 0 [] []))
     on 0 = true ∧ on 15 = true ∧ on 16 = false) := by decide

theorem witness_RunUntilReachesTarget : let s : State := { start [] with cycles := 5 }
    (4 < s.cycles) ∧ (s.cycles ≤ 5 ∧ s.fault = none) ∧ runUntil 5 s = .ok s ∧ 5 ≤ 6 ∧
    finalHalt s = false ∧
    (let halted : State := { start [] with nextCycle := .halted, ie := 0xE0 }
     halted.fault = none ∧ finalHalt halted = true ∧ halted.lcd.dmaIndex = 160) :=
  ⟨by decide, by decide, rfl, by decide, by decide, by decide⟩

/-- A state and a later one of the same machine; two of another controller; two of another RAM size. -/
theorem witness_SaveAndRestore : (let s := start [0x00]
     let t := busWrite 0xC000 0x12 (start [0x00])
     t.wram ≠ s.wram ∧ t.cart.kind = s.cart.kind ∧ t.cart.ramSize = s.cart.ramSize ∧ t.cart.romSize = s.cart.romSize ∧
     t.cart.rom = s.cart.rom ∧ t.bootRom = s.bootRom ∧ t.params = s.params) ∧
    (mbc1State 131072 0).cart.kind ≠ (start []).cart.kind ∧
    (mbc1State 131072 2).cart.ramSize ≠ (mbc1State 131072 3).cart.ramSize := by decide

theorem witness_DecimalAdditionAndSubtraction : 99 < 100 := by decide

/-- The four conditions, each holding and not holding. -/
theorem witness_Conditions : (writeReg .f 0x00 (start [])).regs.f.z = false ∧ (writeReg .f 0x80 (start [])).regs.f.z = true ∧
    (writeReg .f 0x00 (start [])).regs.f.c = false ∧ (writeReg .f 0x10 (start [])).regs.f.c = true := by decide

theorem witness_NopDiEi : (startWith [] false false).params.eiDelay = false ∧ (start []).params.eiDelay = true := by decide

theorem witness_HaltSuspendsFetching : (let s : State := { startWith [0x76] true true with ie := 0x01 }
    s.params.haltBug = true ∧ s.ime = false ∧ (s.ie.toNat &&& s.iflag.toNat &&& 0x1F) ≠ 0) ∧
    (start [0x76]).params.haltBug = false := by decide

theorem witness_StopAndIllegalRaiseFaults : ((0xD3 : Byte) ∈ illegalOpcodes ∧ (0xFD : Byte) ∈ illegalOpcodes) ∧
    (executing (start [0xD3]) = true ∧ fetchInstr (atCpu (start [0xD3])) = .illegal 0xD3) ∧
    (executing (start [0x10, 0x05]) = true ∧ fetchInstr (atCpu (start [0x10, 0x05])) = .stop 0x05) ∧
    (let s : State := { start [] with fault := some (.stopUnmodelled 0x0100) }
     s.fault = some (.stopUnmodelled 0x0100) ∧ s.cycles ≤ 0) := by decide

/-- The hypothesis of the frame of a store, for every statement that uses it. -/
theorem witness_StoredByte : writeReaches (start []) 0xC000 0xC001 = false ∧ writeReaches (start []) 0xFFFD 0xC000 = false ∧
    writeReaches (busWrite 0xFFFD 0x12 (start [])) 0xFFFC 0xFFFE = false := by decide

end Sys2Proof.Tests
end

section
namespace Sys2Proof.Machine

/-! ## The operand bytes the decoder reads (30_encoding.md R300, R301, R313) -/

/-- An opcode byte is its three fields (R302). -/
theorem opByte_fields (op : Byte) : opByte (fieldX op) (fieldY op) (fieldZ op) = op := by revert op; decide

theorem opLength_cases (op : Byte) : opLength op = 1 ∨ opLength op = 2 ∨ opLength op = 3 := by
  unfold opLength; split_ifs <;> simp

/-- An operand byte as an instruction of length `len` sees it: byte `k` when the instruction has one, else 0. -/
def operandByte (len k : Nat) (n : Byte) : Byte := if k < len then n else 0

/-- Rows x = 0, one by one. -/
theorem decodeX0_operands {y z : Nat} (hy : y < 8) (hz : z < 8) (n1 n2 : Byte) :
    decodeX0 y z n1 n2 = decodeX0 y z (operandByte (opLength (opByte 0 y z)) 1 n1)
      (operandByte (opLength (opByte 0 y z)) 2 n2) := by
  interval_cases z <;> interval_cases y <;> rfl

/-- Rows x = 3, one by one. -/
theorem decodeX3_operands {y z : Nat} (hy : y < 8) (hz : z < 8) (op n1 n2 : Byte) :
    decodeX3 op y z n1 n2 = decodeX3 op y z (operandByte (opLength (opByte 3 y z)) 1 n1)
      (operandByte (opLength (opByte 3 y z)) 2 n2) := by
  interval_cases z <;> interval_cases y <;> rfl

/-- The decoder reads no operand byte beyond the length that the opcode byte gives (R301). -/
theorem decode3_operands (op n1 n2 : Byte) :
    decode3 op n1 n2 = decode3 op (operandByte (opLength op) 1 n1) (operandByte (opLength op) 2 n2) := by
  have hx : fieldX op < 4 := by have := op.isLt; unfold fieldX; omega
  have hy : fieldY op < 8 := Nat.mod_lt _ (by decide)
  have hz : fieldZ op < 8 := Nat.mod_lt _ (by decide)
  have hop := opByte_fields op
  unfold decode3
  generalize fieldX op = x at hx hop
  generalize fieldY op = y at hy hop
  generalize fieldZ op = z at hz hop
  subst hop
  interval_cases x
  · exact decodeX0_operands hy hz n1 n2
  · rfl
  · rfl
  · exact decodeX3_operands hy hz _ n1 n2

/-- A three-byte fetch holds the instruction that `decode` answers. -/
theorem decode3_eq_of_decode {op n1 n2 : Byte} {i : Instr} {rest : List Byte}
    (h : decode [op, n1, n2] = .ok (i, rest)) : decode3 op n1 n2 = i := by
  rw [decode3_operands]
  unfold decode at h
  rcases opLength_cases op with hl | hl | hl <;> simp only [hl, Except.ok.injEq, Prod.mk.injEq] at h ⊢ <;> exact h.1

/-! ## A bus write leaves every read it does not reach (20_memory.md R206, R215, R231 to R237, R243) -/

/-- Two MBC1 addresses that select one cell of cartridge RAM are equal modulo its size (R237). -/
theorem mod_eq_of_mbc1RamIndex_eq {c : Cart} {a b : Nat} (ha : 0xA000 ≤ a) (hb : 0xA000 ≤ b)
    (h : mbc1RamIndex c b = mbc1RamIndex c a) : a % c.ramSize = b % c.ramSize := by
  have h' : (b - 0xA000) ≡ (a - 0xA000) [MOD c.ramSize] := Nat.ModEq.add_left_cancel' _ h
  have := h'.add_right 0xA000
  rw [Nat.sub_add_cancel ha, Nat.sub_add_cancel hb] at this
  exact this.symm

/-- What MBC1 answers: a ROM cell, a RAM cell when RAM is open, and nothing elsewhere (R235 to R237). -/
theorem cartRead_mbc1_congr {c c' : Cart} {b : Nat} (hk : c.kind = .mbc1) (hk' : c'.kind = .mbc1)
    (rom : b < 0x8000 → memRead c'.rom (mbc1RomIndex c' b) = memRead c.rom (mbc1RomIndex c b))
    (ram : 0xA000 ≤ b → b < 0xC000 → mbc1RamOpen c' = mbc1RamOpen c ∧
      memRead c'.ram (mbc1RamIndex c' b) = memRead c.ram (mbc1RamIndex c b)) : cartRead b c' = cartRead b c := by
  simp only [cartRead, hk, hk']
  by_cases hb : b < 0x8000
  · rw [if_pos hb, if_pos hb, rom hb]
  · by_cases hr : 0xA000 ≤ b ∧ b < 0xC000
    · obtain ⟨hopen, hcell⟩ := ram hr.1 hr.2
      rw [if_neg hb, if_neg hb, hopen, hcell]
    · rw [if_neg hb, if_neg hb, if_neg hr, if_neg hr]

/-- A cartridge write changes the cartridge's answer only where MBC1's registers or its RAM cell reach. -/
theorem cartRead_cartWrite_of_not_reach {c : Cart} {a b : Word} (h : mbc1Reach c a b = false) (v : Byte) :
    cartRead b.toNat (cartWrite a.toNat v c) = cartRead b.toNat c := by
  cases hk : c.kind with
  | mbc0 => simp only [cartWrite, hk]
  | mbc1 =>
    simp only [mbc1Reach, hk, decide_true, Bool.true_and, inCartRam] at h
    simp only [cartWrite, hk]
    by_cases h1 : a.toNat < 0x2000
    · -- RAM enable: seen in the RAM window
      simp only [if_pos h1] at h ⊢
      simp only [Bool.and_eq_false_iff, decide_eq_false_iff_not] at h
      exact cartRead_mbc1_congr hk rfl (fun _ => rfl) fun _ _ => by omega
    by_cases h2 : a.toNat < 0x4000
    · -- ROM bank: seen in the upper ROM window
      simp only [if_neg h1, if_pos h2] at h ⊢
      simp only [Bool.and_eq_false_iff, decide_eq_false_iff_not] at h
      refine cartRead_mbc1_congr hk rfl (fun hb => ?_) fun _ _ => ⟨rfl, rfl⟩
      have hlow : b.toNat < 0x4000 := by omega
      simp only [mbc1RomIndex, if_pos hlow]
    by_cases h3 : a.toNat < 0x6000
    · -- second bank register: seen in both ROM windows and in RAM
      simp only [if_neg h1, if_neg h2, if_pos h3] at h ⊢
      simp only [Bool.or_eq_false_iff, Bool.and_eq_false_iff, decide_eq_false_iff_not] at h
      exact cartRead_mbc1_congr hk rfl (fun _ => by omega) fun _ _ => by omega
    by_cases h4 : a.toNat < 0x8000
    · -- bank mode: seen in the lower ROM window and in RAM
      simp only [if_neg h1, if_neg h2, if_neg h3, if_pos h4] at h ⊢
      simp only [Bool.or_eq_false_iff, Bool.and_eq_false_iff, decide_eq_false_iff_not] at h
      refine cartRead_mbc1_congr hk rfl (fun hb => ?_) fun _ _ => by omega
      have hhigh : ¬ b.toNat < 0x4000 := by omega
      simp only [mbc1RomIndex, if_neg hhigh]
    by_cases h5 : (0xA000 ≤ a.toNat ∧ a.toNat < 0xC000) ∧ mbc1RamOpen c = true
    · -- a RAM cell, seen at the addresses that select it
      obtain ⟨hram, hopen⟩ := h5
      simp only [if_neg h1, if_neg h2, if_neg h3, if_neg h4, if_pos hram, if_pos hopen] at h ⊢
      refine cartRead_mbc1_congr hk rfl (fun _ => rfl) fun hb hb' => ⟨rfl, memRead_memWrite_other _ _ fun he => ?_⟩
      have := mod_eq_of_mbc1RamIndex_eq hram.1 hb he
      simp [hram, hb, hb', this] at h
    · -- no cell
      simp only [if_neg h1, if_neg h2, if_neg h3, if_neg h4, ← ite_and, if_neg h5]

/-! ### Device by device -/

/-- A read is settled by what each device answers (R205). -/
theorem busRead_congr {b : Word} {s t : State} (cpu : cpuDevRead b t = cpuDevRead b s) (mux : muxRead b t = muxRead b s)
    (lcd : lcdRead b t = lcdRead b s) (ram : wramViewRead 0xC000 0xE000 b t = wramViewRead 0xC000 0xE000 b s)
    (echo : wramViewRead 0xE000 0xFE00 b t = wramViewRead 0xE000 0xFE00 b s) (timer : timerRead b t = timerRead b s) :
    busRead b t = busRead b s := by
  unfold busRead deviceRead
  rw [cpu, mux, lcd, ram, echo, timer]

/-- A function of a conditional has the value z when it has it in both branches. -/
theorem apply_ite_eq {α β : Type} {f : α → β} {z : β} {c : Prop} [Decidable c] {x y : α} (hx : c → f x = z)
    (hy : f y = z) : f (if c then x else y) = z := by
  split
  · exact hx ‹_›
  · exact hy

section
variable {a b : Word} (v : Byte) (s : State)

/-- IF is seen at its own address alone. -/
theorem cpuDevRead_iflag (h : b ≠ 0xFF0F) (x : BitVec 5) : cpuDevRead b { s with iflag := x } = cpuDevRead b s := by
  simp only [cpuDevRead, if_neg h]

/-- IE is seen at its own address alone. -/
theorem cpuDevRead_ie (h : b ≠ 0xFFFF) : cpuDevRead b { s with ie := v } = cpuDevRead b s := by
  simp only [cpuDevRead, if_neg h]

/-- A cell of high RAM is seen at its own address alone. -/
theorem cpuDevRead_hram {i : Nat} (h : 0xFF80 ≤ b.toNat → b.toNat - 0xFF80 ≠ i) :
    cpuDevRead b { s with hram := memWrite s.hram i v } = cpuDevRead b s := by
  simp only [cpuDevRead]
  by_cases hb : 0xFF80 ≤ b.toNat ∧ b.toNat < 0xFFFF
  · rw [memRead_memWrite_other _ _ (h hb.1)]
  · rw [if_neg hb, if_neg hb]

/-- The multiplexer forwards what the cartridge answers. -/
theorem muxRead_cart {c : Cart} (h : cartRead b.toNat c = cartRead b.toNat s.cart) :
    muxRead b { s with cart := c } = muxRead b s := by
  simp only [muxRead, h]

/-- The latch is seen below 0x0100 alone (R220). -/
theorem muxRead_bootDisabled (h : 0xFF < b.toNat) (x : Bool) : muxRead b { s with bootDisabled := x } = muxRead b s := by
  have hb : ¬ b.toNat ≤ 0xFF := Nat.not_le.mpr h
  simp only [muxRead, hb, decide_false, Bool.and_false]

/-- A cell of work RAM is seen, in a view that starts at `p`, at the cell's distance from `p` alone. -/
theorem wramViewRead_wram {p q i : Nat} (h : p ≤ b.toNat → b.toNat < q → b.toNat - p ≠ i) :
    wramViewRead p q b { s with wram := memWrite s.wram i v } = wramViewRead p q b s := by
  simp only [wramViewRead]
  by_cases hb : p ≤ b.toNat ∧ b.toNat < q
  · rw [memRead_memWrite_other _ _ (h hb.1 hb.2)]
  · rw [if_neg hb, if_neg hb]

/-- A cell of video RAM is seen at its own address alone. -/
theorem lcdRead_vram {i : Nat} (h : 0x8000 ≤ b.toNat → b.toNat - 0x8000 ≠ i) :
    lcdRead b { s with lcd := { s.lcd with vram := memWrite s.lcd.vram i v } } = lcdRead b s := by
  simp only [lcdRead, statByte]
  by_cases hb : 0x8000 ≤ b.toNat ∧ b.toNat < 0xA000
  · rw [memRead_memWrite_other _ _ (h hb.1)]
  · rw [if_neg hb, if_neg hb]

/-- A cell of OAM is seen at its own address alone. -/
theorem lcdRead_oam {i : Nat} (h : 0xFE00 ≤ b.toNat → b.toNat - 0xFE00 ≠ i) :
    lcdRead b { s with lcd := { s.lcd with oam := memWrite s.lcd.oam i v } } = lcdRead b s := by
  simp only [lcdRead, statByte]
  by_cases hb : 0xFE00 ≤ b.toNat ∧ b.toNat < 0xFEA0
  · rw [memRead_memWrite_other _ _ (h hb.1)]
  · rw [if_neg hb, if_neg hb]

/-- A display register is seen at its own address, LCDC in STAT and LY as well, and LYC in STAT (R243). -/
theorem lcdRead_lcdWrite_other (hlo : 0xFF40 ≤ a.toNat) (hab : a ≠ b) (h40 : a = 0xFF40 → b ≠ 0xFF41 ∧ b ≠ 0xFF44)
    (h45 : a = 0xFF45 → b ≠ 0xFF41) : lcdRead b (lcdWrite a v s) = lcdRead b s := by
  rw [lcdWrite, if_neg (by omega), if_neg (by omega)]
  refine apply_ite_eq (fun ha => ?lcdc) <| apply_ite_eq (fun ha => ?stat) <| apply_ite_eq (fun ha => ?scy) <|
    apply_ite_eq (fun ha => ?scx) <| apply_ite_eq (fun ha => ?lyc) <| apply_ite_eq (fun ha => ?dma) <|
    apply_ite_eq (fun ha => ?bgp) <| apply_ite_eq (fun ha => ?obp0) <| apply_ite_eq (fun ha => ?obp1) <|
    apply_ite_eq (fun ha => ?wy) <| apply_ite_eq (fun ha => ?wx) rfl
  case lcdc =>
    obtain ⟨hstat, hly⟩ := h40 ha
    subst ha
    unfold writeLcdc
    dsimp only
    split
    · simp only [setLy_eq, setLcdNext, lcdRead, if_neg hab.symm, if_neg hstat, if_neg hly]
    · simp only [lcdRead, if_neg hab.symm, statByte]
  case lyc =>
    have hstat := h45 ha
    subst ha
    simp only [checkLyc_eq, lcdRead, if_neg hab.symm, if_neg hstat]
  case stat =>
    subst ha
    simp only [lcdRead, if_neg hab.symm]
  all_goals
    subst ha
    simp only [writeDma, lcdRead, if_neg hab.symm, statByte]

/-- Only a write of LCDC or of LYC requests an interrupt. -/
theorem lcdWrite_iflag (h40 : a ≠ 0xFF40) (h45 : a ≠ 0xFF45) : (lcdWrite a v s).iflag = s.iflag := by
  unfold lcdWrite
  exact apply_ite_eq (fun _ => rfl) <| apply_ite_eq (fun _ => rfl) <| apply_ite_eq (absurd · h40) <|
    apply_ite_eq (fun _ => rfl) <| apply_ite_eq (fun _ => rfl) <| apply_ite_eq (fun _ => rfl) <|
    apply_ite_eq (absurd · h45) <| apply_ite_eq (fun _ => rfl) <| apply_ite_eq (fun _ => rfl) <|
    apply_ite_eq (fun _ => rfl) <| apply_ite_eq (fun _ => rfl) <| apply_ite_eq (fun _ => rfl) <|
    apply_ite_eq (fun _ => rfl) rfl

/-- A timer update takes the counter and the control, and keeps TMA. -/
theorem timerUpdate_timer (n : Word) (tac : BitVec 3) : (timerUpdate n tac s).timer.tcount = n ∧
    (timerUpdate n tac s).timer.tac = tac ∧ (timerUpdate n tac s).timer.tma = s.timer.tma := by
  rw [timerUpdate_eq]
  split
  · rw [timerTick_eq]; exact ⟨rfl, rfl, rfl⟩
  · exact ⟨rfl, rfl, rfl⟩

/-- A timer register is seen at its own address, DIV and TAC in TIMA as well (R243). -/
theorem timerRead_timerWrite_other (hab : a ≠ b) (h : a = 0xFF04 ∨ a = 0xFF07 → b ≠ 0xFF05) :
    timerRead b (timerWrite a v s) = timerRead b s := by
  unfold timerWrite
  split_ifs with h4 h5 h6 h7
  · subst h4
    obtain ⟨-, htac, htma⟩ := timerUpdate_timer s 0 s.timer.tac
    simp only [timerRead, htac, htma, if_neg hab.symm, if_neg (h (.inl rfl))]
  · subst h5
    simp only [timerRead, if_neg hab.symm]
  · subst h6
    simp only [timerRead, if_neg hab.symm]
  · subst h7
    obtain ⟨htcount, -, htma⟩ := timerUpdate_timer s s.timer.tcount (v.setWidth 3)
    simp only [timerRead, htcount, htma, if_neg hab.symm, if_neg (h (.inr rfl))]
  · rfl

/-- Only a write of DIV or of TAC requests an interrupt. -/
theorem timerWrite_iflag (h4 : a ≠ 0xFF04) (h7 : a ≠ 0xFF07) : (timerWrite a v s).iflag = s.iflag := by
  unfold timerWrite
  rw [if_neg h4, if_neg h7]
  split_ifs <;> rfl

/-- An address of no device takes no write but 0xFF50's, which sets the latch (R220). -/
theorem busWrite_gap (h : 0xFEA0 ≤ a.toNat ∧ a.toNat < 0xFF04 ∨ 0xFF08 ≤ a.toNat ∧ a.toNat < 0xFF0F ∨
    0xFF10 ≤ a.toNat ∧ a.toNat < 0xFF40 ∨ 0xFF4C ≤ a.toNat ∧ a.toNat < 0xFF80) :
    busWrite a v s = { s with bootDisabled := if a = 0xFF50 then true else s.bootDisabled } := by
  have hif : a ≠ 0xFF0F := ne_of_toNat (n := 0xFF0F) (by omega)
  rw [busWrite, cpuDevWrite_none (by omega) hif, lcdWrite_none (by omega) (by omega) (by omega),
    wramViewWrite_none (by omega), wramViewWrite_none (by omega), timerWrite_none (by omega)]
  by_cases h50 : a = 0xFF50
  · subst h50; rfl
  · rw [muxWrite_none (by omega) (by omega) h50, if_neg h50]

/-! ### All of them -/

/-- Where a register with side effects does not reach. -/
theorem of_registerReach_eq_false (h : registerReach a b = false) :
    (a = 0xFF04 ∨ a = 0xFF07 → b ≠ 0xFF05 ∧ b ≠ 0xFF0F) ∧ (a = 0xFF40 → b ≠ 0xFF41 ∧ b ≠ 0xFF44 ∧ b ≠ 0xFF0F) ∧
    (a = 0xFF45 → b ≠ 0xFF41 ∧ b ≠ 0xFF0F) ∧ (a = 0xFF50 → 0xFF < b.toNat) := by
  simp only [registerReach, Bool.or_eq_false_iff, Bool.and_eq_false_imp, Bool.or_eq_true, beq_iff_eq,
    beq_eq_false_iff_ne, decide_eq_false_iff_not, Nat.not_le] at h
  obtain ⟨⟨⟨htimer, hlcdc⟩, hlyc⟩, hlatch⟩ := h
  exact ⟨htimer, fun ha => and_assoc.mp (hlcdc ha), hlyc, hlatch⟩

/-- A bus write leaves the read of every address it does not reach (R206, R215, R243). -/
theorem busRead_busWrite_of_not_reach (h : writeReaches s a b = false) : busRead b (busWrite a v s) = busRead b s := by
  simp only [writeReaches, Bool.or_eq_false_iff, beq_eq_false_iff_ne] at h
  obtain ⟨⟨⟨hab, hecho⟩, hmbc⟩, hreg⟩ := h
  have hne := BitVec.toNat_ne.mp hab
  simp only [echoAlias, Bool.or_eq_false_iff, Bool.and_eq_false_iff, decide_eq_false_iff_not] at hecho
  obtain ⟨htimer, hlcdc, hlyc, hlatch⟩ := of_registerReach_eq_false hreg
  cases Window.of_address a with
  | mux h =>
    rw [busWrite_mux _ _ h]
    exact busRead_congr rfl (muxRead_cart s (cartRead_cartWrite_of_not_reach hmbc v)) rfl rfl rfl rfl
  | vram h h' =>
    rw [busWrite_vram _ _ h h']
    exact busRead_congr rfl rfl (lcdRead_vram v s (by omega)) rfl rfl rfl
  | wram h h' =>
    rw [busWrite_wram _ _ h h']
    exact busRead_congr rfl rfl rfl (wramViewRead_wram v s (by omega)) (wramViewRead_wram v s (by omega)) rfl
  | echo h h' =>
    rw [busWrite_echo _ _ h h']
    exact busRead_congr rfl rfl rfl (wramViewRead_wram v s (by omega)) (wramViewRead_wram v s (by omega)) rfl
  | oam h h' =>
    rw [busWrite_oam _ _ h h']
    exact busRead_congr rfl rfl (lcdRead_oam v s (by omega)) rfl rfl rfl
  | timer h h' =>
    rw [busWrite_timerReg _ _ h h']
    have hregs := timerRead_timerWrite_other v s hab fun ha => (htimer ha).1
    have hcpu : cpuDevRead b { s with iflag := (timerWrite a v s).iflag } = cpuDevRead b s := by
      by_cases ha : a = 0xFF04 ∨ a = 0xFF07
      · exact cpuDevRead_iflag s (htimer ha).2 _
      · rw [timerWrite_iflag v s (fun h => ha (.inl h)) (fun h => ha (.inr h))]
    rw [timerWrite_frame] at hregs ⊢
    exact busRead_congr hcpu rfl rfl rfl rfl hregs
  | interruptFlag h =>
    subst h
    rw [busWrite_if]
    exact busRead_congr (cpuDevRead_iflag s hab.symm _) rfl rfl rfl rfl rfl
  | lcd h h' =>
    rw [busWrite_lcdReg _ _ h h']
    have hregs := lcdRead_lcdWrite_other v s h hab (fun ha => ⟨(hlcdc ha).1, (hlcdc ha).2.1⟩) fun ha => (hlyc ha).1
    have hcpu : cpuDevRead b { s with iflag := (lcdWrite a v s).iflag } = cpuDevRead b s := by
      by_cases h40 : a = 0xFF40
      · exact cpuDevRead_iflag s (hlcdc h40).2.2 _
      by_cases h45 : a = 0xFF45
      · exact cpuDevRead_iflag s (hlyc h45).2 _
      · rw [lcdWrite_iflag v s h40 h45]
    rw [lcdWrite_frame] at hregs ⊢
    exact busRead_congr hcpu rfl hregs rfl rfl rfl
  | hram h h' =>
    rw [busWrite_hram _ _ h h']
    exact busRead_congr (cpuDevRead_hram v s (by omega)) rfl rfl rfl rfl rfl
  | interruptEnable h =>
    subst h
    rw [busWrite_ie]
    exact busRead_congr (cpuDevRead_ie v s hab.symm) rfl rfl rfl rfl rfl
  | none h =>
    rw [busWrite_gap _ _ h]
    by_cases h50 : a = 0xFF50
    · exact busRead_congr rfl (muxRead_bootDisabled s (hlatch h50) _) rfl rfl rfl rfl
    · rw [if_neg h50]

end

/-! ## What one step does (60_exceptions.md R702, R710; 70_reset_and_hazards.md R910) -/

/-- A machine without a fault: the devices, the CPU, the end of the cycle. -/
theorem step_of_no_fault {s : State} (h : s.fault = none) : step s = mapNext endCycle (cpuStep (devicesStep s)) := by
  rw [step, cycleStep, h]

section
variable {s d : State} (hf : s.fault = none) (hd : wake (devicesStep s) = d)
include hf hd

/-- A boundary that services an interrupt. -/
theorem step_service (hb : atBoundary d = true) (hi : serviceDue d = true) :
    step s = .next (endCycle (serviceBoundary d)) := by
  rw [step_of_no_fault hf, cpuStep]
  simp only [hd, hb, hi, if_true, mapNext]

/-- A boundary that executes the instruction fetched there. -/
theorem step_execute (hb : atBoundary d = true) (hi : serviceDue d = false) :
    step s = mapNext (fun t => endCycle (finishBoundary d t)) (exec (fetchInstr d) { d with pc := fetchBase d }) := by
  rw [step_of_no_fault hf, cpuStep]
  simp only [hd, hb, hi, if_true, Bool.false_eq_true, if_false, executeBoundary]
  cases exec _ _ <;> rfl

/-- Between boundaries the CPU does nothing. -/
theorem step_idle (hb : atBoundary d = false) : step s = .next (endCycle d) := by
  rw [step_of_no_fault hf, cpuStep]
  simp only [hd, hb, Bool.false_eq_true, if_false, mapNext]

end

/-- A mapped result that is a next state was a next state. -/
theorem mapNext_eq_next {f : State → State} {r : Result} {t : State} (h : mapNext f r = .next t) :
    ∃ u, r = .next u ∧ t = f u := by
  cases r with
  | next u => injection h with h; exact ⟨u, rfl, h.symm⟩
  | fault f => cases h
  | refused q => cases h

/-- Everything a step that answers can have done. -/
theorem step_cases {s t : State} (h : step s = .next t) :
    let d := wake (devicesStep s)
    s.fault = none ∧
    (atBoundary d = false ∧ t = endCycle d ∨
     atBoundary d = true ∧ serviceDue d = true ∧ t = endCycle (serviceBoundary d) ∨
     atBoundary d = true ∧ serviceDue d = false ∧ ∃ u, exec (fetchInstr d) { d with pc := fetchBase d } = .next u ∧
       t = endCycle (finishBoundary d u)) := by
  have hf : s.fault = none := by
    cases hf : s.fault with
    | none => rfl
    | some f => rw [step, cycleStep, hf] at h; cases h
  refine ⟨hf, ?_⟩
  cases hb : atBoundary (wake (devicesStep s)) with
  | false =>
    rw [step_idle hf rfl hb] at h
    injection h with h
    exact .inl ⟨rfl, h.symm⟩
  | true =>
    cases hi : serviceDue (wake (devicesStep s)) with
    | true =>
      rw [step_service hf rfl hb hi] at h
      injection h with h
      exact .inr (.inl ⟨rfl, rfl, h.symm⟩)
    | false =>
      rw [step_execute hf rfl hb hi] at h
      exact .inr (.inr ⟨rfl, rfl, mapNext_eq_next h⟩)

/-- The end of a boundary is a matter of the CPU alone. -/
theorem sameDevices_finishBoundary (s0 s : State) : SameDevices s (finishBoundary s0 s) := by
  unfold finishBoundary
  dsimp only
  split_ifs <;> exact .of_fields rfl rfl rfl rfl rfl rfl rfl rfl rfl rfl rfl

@[simp] theorem finishBoundary_fault (s0 s : State) : (finishBoundary s0 s).fault = s.fault := by
  unfold finishBoundary
  dsimp only
  split_ifs <;> rfl

/-! ## The parts of a machine that no step changes -/

/-- The cartridge's controller, image and sizes, the boot ROM and the parameters of t are those of s, and a boot ROM
disabled in s is disabled in t (10_state.md R141, R142; 20_memory.md R220). -/
structure KeepsRomsAndLatch (s t : State) : Prop where
  kind : t.cart.kind = s.cart.kind
  romSize : t.cart.romSize = s.cart.romSize
  rom : t.cart.rom = s.cart.rom
  ramSize : t.cart.ramSize = s.cart.ramSize
  bootRom : t.bootRom = s.bootRom
  params : t.params = s.params
  latch : s.bootDisabled = true → t.bootDisabled = true

namespace KeepsRomsAndLatch

theorem of_eq {s t : State} (hc : t.cart = s.cart) (hr : t.bootRom = s.bootRom) (hp : t.params = s.params)
    (hl : t.bootDisabled = s.bootDisabled) : KeepsRomsAndLatch s t :=
  ⟨by rw [hc], by rw [hc], by rw [hc], by rw [hc], hr, hp, fun h => hl.trans h⟩

theorem trans {s t u : State} (h : KeepsRomsAndLatch s t) (h' : KeepsRomsAndLatch t u) : KeepsRomsAndLatch s u :=
  ⟨h'.kind.trans h.kind, h'.romSize.trans h.romSize, h'.rom.trans h.rom, h'.ramSize.trans h.ramSize,
    h'.bootRom.trans h.bootRom, h'.params.trans h.params, fun hs => h'.latch (h.latch hs)⟩

theorem of_sameDevices {s t : State} (h : SameDevices s t) : KeepsRomsAndLatch s t :=
  of_eq h.cart h.bootRom h.params h.bootDisabled

theorem busWrite (a : Word) (v : Byte) (s : State) : KeepsRomsAndLatch s (busWrite a v s) := by
  obtain ⟨bootRom, params, kind, romSize, rom, ramSize, latch⟩ := busWrite_fixed a v s
  exact ⟨kind, romSize, rom, ramSize, bootRom, params, latch⟩

/-- Bus writes are all that reaches the devices in an instruction or a service. -/
theorem of_devicesAfterWrites {s t : State} (h : DevicesAfterWrites s t) : KeepsRomsAndLatch s t := by
  obtain ⟨ws, hw⟩ := h
  have hws : KeepsRomsAndLatch s (busWrites ws s) :=
    busWrites_ind (P := KeepsRomsAndLatch s) (fun a v u hu => hu.trans (busWrite a v u)) ws (of_eq rfl rfl rfl rfl)
  exact hws.trans (of_sameDevices hw)

theorem devicesStep (s : State) : KeepsRomsAndLatch s (devicesStep s) := of_eq (by simp) (by simp) (by simp) (by simp)

theorem wake (s : State) : KeepsRomsAndLatch s (wake s) := by
  rw [wake_frame]; exact of_eq rfl rfl rfl rfl

theorem endCycle (s : State) : KeepsRomsAndLatch s (endCycle s) := of_eq rfl rfl rfl rfl

theorem serviceBoundary (s : State) : KeepsRomsAndLatch s (serviceBoundary s) :=
  (of_eq rfl rfl rfl rfl : KeepsRomsAndLatch s (serviceBase s)).trans
    (of_devicesAfterWrites (serviceBoundary_devices s))

/-- An instruction, run at any pc, and the end of its boundary. -/
theorem executed {s u : State} {i : Instr} {pc : Word} (h : exec i { s with pc := pc } = .next u) :
    KeepsRomsAndLatch s (finishBoundary s u) :=
  ((of_eq rfl rfl rfl rfl : KeepsRomsAndLatch s { s with pc := pc }).trans
    (of_devicesAfterWrites (exec_devices i _ u h))).trans (of_sameDevices (sameDevices_finishBoundary s u))

/-- Every step: by what it did after the devices' steps and the wake-up. -/
theorem step {s t : State} (h : step s = .next t) : KeepsRomsAndLatch s t := by
  have hd := (devicesStep s).trans (wake (Machine.devicesStep s))
  obtain ⟨-, ⟨-, rfl⟩ | ⟨-, -, rfl⟩ | ⟨-, -, u, hu, rfl⟩⟩ := step_cases h
  · exact hd.trans (endCycle _)
  · exact (hd.trans (serviceBoundary _)).trans (endCycle _)
  · exact (hd.trans (executed hu)).trans (endCycle _)

end KeepsRomsAndLatch

/-! ## A push, and the boundary that services an interrupt (44_control.md R560, 60_exceptions.md R730) -/

/-- The devices of a push, with the CPU's own state of one, are that push. -/
theorem pushed_of_sameDevices {v : Word} {s t : State} (hd : SameDevices (push16 v s) t) (regs : t.regs = s.regs)
    (sp : t.sp = s.sp - 2) (control : SameControl s t) : Pushed v s t := by
  have hw := (sameDevices_push16 v s).trans hd
  refine ⟨fun r _ => by rw [readReg, regs]; rfl, sp, control, hw, fun b h1 h2 => ?_⟩
  rw [hw.reads, busRead_busWrite_of_not_reach _ _ h2, busRead_busWrite_of_not_reach _ _ h1]

/-- A service pushes the address the next instruction would run at. -/
theorem pushed_serviceBoundary (s : State) : Pushed (fetchBase s) (serviceBase s) (serviceBoundary s) := by
  refine pushed_of_sameDevices (sameDevices_serviceBoundary s) ?_ ?_ ⟨?_, ?_, ?_, ?_⟩ <;>
    simp [serviceBoundary, serviceBase]

/-- A HALT-bug fetch is over after its instruction, whatever that was, unless it faulted (R610). -/
theorem finishBoundary_haltBugPending {d u : State} (hd : d.haltBugPending = true)
    (hf : (finishBoundary d u).fault = none) : (finishBoundary d u).haltBugPending = false := by
  rw [finishBoundary_fault] at hf
  simp only [finishBoundary, hf, hd, Option.isSome_none, Bool.not_true, Bool.and_false, Bool.false_eq_true, if_false]
  split <;> rfl

/-! ## The settled statements -/

/-- Settles O14: the devices' steps, an instruction's or a service's bus writes and the CPU's own state leave the ROMs,
the parameters and a set latch as they are. -/
theorem stepKeepsRomsAndLatch : Obligations.StepKeepsRomsAndLatch := by
  intro s t h
  obtain ⟨kind, romSize, rom, ramSize, bootRom, params, latch⟩ := KeepsRomsAndLatch.step h
  exact ⟨kind, romSize, rom, ramSize, bootRom, params, latch⟩

/-- Settles O5: at such a boundary the instruction fetched is the one decoded, and it runs at the pc. -/
theorem stepRunsDecoded : Obligations.StepRunsDecoded := by
  intro s i rest hf d hb hi hh hdec
  have hbase : fetchBase d = d.pc := by simp [fetchBase, hh]
  have hfetch : fetchInstr d = i := by
    rw [fetchInstr, hbase]; exact decode3_eq_of_decode hdec
  have hstep := step_execute hf (d := d) rfl hb hi
  rwa [hfetch, hbase] at hstep

/-- Settles O6: such a boundary fetches at the pc and runs at pc - 1, its end clears the pending fetch, and a service
there pushes pc - 1. -/
theorem haltBugFetch : Obligations.HaltBugFetch := by
  intro s hf d hb hh
  have hbase : fetchBase d = d.pc - 1 := if_pos hh
  refine ⟨fun i rest hi hdec => ?_, fun hi => ⟨serviceBase d, serviceBoundary d, rfl, step_service hf rfl hb hi, ?_⟩⟩
  · have hstep := step_execute hf (d := d) rfl hb hi
    have hfetch : fetchInstr d = i := by
      rw [fetchInstr, hbase]; exact decode3_eq_of_decode hdec
    rw [hfetch, hbase] at hstep
    refine ⟨hstep, fun t ht hft => ?_⟩
    obtain ⟨u, -, rfl⟩ := mapNext_eq_next (hstep.symm.trans ht)
    exact finishBoundary_haltBugPending hh hft
  · rw [← hbase]
    exact pushed_serviceBoundary d

end Sys2Proof.Machine
end

section
namespace Sys2Proof.Machine

/-! ## Byte stores and the cartridge keep their invariant (20_memory.md R214, R225, R231 to R237) -/

/-- A store in canonical form and inside its size. -/
def MemOk (size : Nat) (m : Mem) : Prop := m.wf = true ∧ memWithin size m = true

theorem MemOk.memWrite {size i : Nat} {m : Mem} (h : MemOk size m) (hi : i < size) (v : Byte) :
    MemOk size (memWrite m i v) :=
  ⟨Mem.wf_memWrite i v h.1, memWithin_memWrite v hi h.2⟩

/-- The cartridge's part of the invariant. -/
structure CartridgeOk (c : Cart) : Prop where
  regs : CartOk c
  rom : MemOk c.romSize c.rom
  ram : MemOk c.ramSize c.ram

/-- Every control write keeps the cartridge's part: MBC1's bank register takes 1 for 0 (R232), and a RAM cell is chosen
modulo the RAM's size (R237). -/
theorem CartridgeOk.cartWrite {c : Cart} (h : CartridgeOk c) (a : Nat) (v : Byte) : CartridgeOk (cartWrite a v c) := by
  obtain ⟨⟨bank5, size, mbc0, mbc1⟩, rom, ram⟩ := h
  unfold Machine.cartWrite
  split
  · exact ⟨⟨bank5, size, mbc0, mbc1⟩, rom, ram⟩
  split_ifs with henable hbank5 hzero hbank2 hmode hram hopen
  · exact ⟨⟨bank5, size, mbc0, mbc1⟩, rom, ram⟩
  · exact ⟨⟨(by decide : (1 : BitVec 5) ≠ 0), size, mbc0, mbc1⟩, rom, ram⟩
  · exact ⟨⟨hzero, size, mbc0, mbc1⟩, rom, ram⟩
  · exact ⟨⟨bank5, size, mbc0, mbc1⟩, rom, ram⟩
  · exact ⟨⟨bank5, size, mbc0, mbc1⟩, rom, ram⟩
  · have hsize : c.ramSize ≠ 0 := of_decide_eq_true (Bool.and_eq_true_iff.mp hopen).2
    exact ⟨⟨bank5, size, mbc0, mbc1⟩, rom, ram.memWrite (Nat.mod_lt _ (Nat.pos_of_ne_zero hsize)) v⟩
  · exact ⟨⟨bank5, size, mbc0, mbc1⟩, rom, ram⟩
  · exact ⟨⟨bank5, size, mbc0, mbc1⟩, rom, ram⟩

/-! ## The display keeps its invariant (60_exceptions.md R803, R804, R840) -/

/-- Mode 1 is V-blank's lines, every other mode is on a visible line. -/
def LineOk (m : LcdMode) (ly : Byte) : Prop :=
  (m = .vblank → 144 ≤ ly.toNat ∧ ly.toNat < 154) ∧ (m ≠ .vblank → ly.toNat < 144)

theorem LineOk.of_visible {m : LcdMode} {ly : Byte} (hm : m ≠ .vblank) (hly : ly.toNat < 144) : LineOk m ly :=
  ⟨fun h => absurd h hm, fun _ => hly⟩

theorem LineOk.of_vblank {ly : Byte} (hly : 144 ≤ ly.toNat ∧ ly.toNat < 154) : LineOk .vblank ly :=
  ⟨fun _ => hly, fun h => absurd rfl h⟩

/-- The first line, where a frame starts and a disabled display stays. -/
theorem LineOk.zero {m : LcdMode} (hm : m ≠ .vblank) : LineOk m 0 := .of_visible hm (by decide)

/-- The display's part of the invariant, its next event not before cycle `c`. -/
structure DisplayOk (c : Nat) (l : Lcd) : Prop where
  regs : LcdOk l
  vram : MemOk 8192 l.vram
  oam : MemOk 160 l.oam
  next : ∀ n, l.lcdNext = .cycle n → c ≤ n

namespace DisplayOk

variable {c : Nat}

/-- A display that differs in the other registers alone. -/
theorem of_eq {l l' : Lcd} (h : DisplayOk c l) (lcdc : l'.lcdc = l.lcdc) (mode : l'.mode = l.mode) (ly : l'.ly = l.ly)
    (lcdNext : l'.lcdNext = l.lcdNext) (dmaIndex : l'.dmaIndex = l.dmaIndex) (vram : l'.vram = l.vram)
    (oam : l'.oam = l.oam) : DisplayOk c l' := by
  obtain ⟨⟨vblank, visible, off, dma⟩, hvram, hoam, next⟩ := h
  refine ⟨⟨?_, ?_, ?_, dmaIndex ▸ dma⟩, vram ▸ hvram, oam ▸ hoam, lcdNext ▸ next⟩
  · rwa [mode, ly]
  · rwa [mode, ly]
  · rwa [lcdcBit, lcdc, lcdNext, ly, mode]

theorem line {l : Lcd} (h : DisplayOk c l) : LineOk l.mode l.ly := ⟨h.regs.vblankLines, h.regs.visibleLines⟩

/-- A write of LCDC that clears bit 7 leaves line 0, mode 0 and the counter HALTED; one that leaves it clear finds them
so (R803). -/
theorem writeLcdc {s : State} (h : DisplayOk c s.lcd) (v : Byte) : DisplayOk c (writeLcdc v s).lcd := by
  obtain ⟨⟨vblank, visible, off, dma⟩, vram, oam, next⟩ := h
  unfold Machine.writeLcdc
  dsimp only
  split
  · simp only [setLy_eq, setLcdNext]
    exact ⟨⟨nofun, (LineOk.zero (m := .hblank) nofun).2, fun _ => ⟨rfl, rfl, rfl⟩, dma⟩, vram, oam, nofun⟩
  · rename_i hkeep
    refine ⟨⟨vblank, visible, fun hv => off ?_, dma⟩, vram, oam, next⟩
    have hv : v.getLsbD 7 = false := hv
    simpa only [hv, Bool.not_false, Bool.and_true, Bool.not_eq_true] using hkeep

theorem ite {p : Prop} [Decidable p] {x y : State} (hx : p → DisplayOk c x.lcd) (hy : DisplayOk c y.lcd) :
    DisplayOk c (if p then x else y).lcd :=
  iteInduction (motive := fun u : State => DisplayOk c u.lcd) hx fun _ => hy

/-- Every write of the display as a device keeps its part of the invariant. -/
theorem lcdWrite {s : State} (h : DisplayOk c s.lcd) (a : Word) (v : Byte) : DisplayOk c (lcdWrite a v s).lcd := by
  obtain ⟨vblank, visible, off, dma⟩ := h.regs
  unfold Machine.lcdWrite
  refine .ite (fun hvram => ?vram) <| .ite (fun hoam => ?oam) <| .ite (fun _ => h.writeLcdc v) <| .ite (fun _ => ?stat) <|
    .ite (fun _ => ?scy) <| .ite (fun _ => ?scx) <| .ite (fun _ => ?lyc) <| .ite (fun _ => ?dma) <|
    .ite (fun _ => ?bgp) <| .ite (fun _ => ?obp0) <| .ite (fun _ => ?obp1) <| .ite (fun _ => ?wy) <|
    .ite (fun _ => ?wx) h
  case vram => exact ⟨⟨vblank, visible, off, dma⟩, h.vram.memWrite (by omega) v, h.oam, h.next⟩
  case oam => exact ⟨⟨vblank, visible, off, dma⟩, h.vram, h.oam.memWrite (by omega) v, h.next⟩
  case lyc => rw [checkLyc_eq]; exact h.of_eq rfl rfl rfl rfl rfl rfl rfl
  case dma => exact ⟨⟨vblank, visible, off, Nat.zero_le 160⟩, h.vram, h.oam, h.next⟩
  all_goals exact h.of_eq rfl rfl rfl rfl rfl rfl rfl

/-- The DMA unit writes a cell of OAM and moves its index up to 160 (R840). -/
theorem dmaStep {s : State} (h : DisplayOk c s.lcd) : DisplayOk c (dmaStep s).lcd := by
  have hregs := h.regs
  unfold Machine.dmaStep
  split
  · rename_i hi
    exact ⟨⟨hregs.vblankLines, hregs.visibleLines, hregs.off, hi⟩, h.vram, h.oam.memWrite hi _, h.next⟩
  · exact h

end DisplayOk

/-! ### The state machine, event by event (R804) -/

/-- LCDC is as before, the mode suits the line, and the next event is after the current cycle. -/
structure ScheduledFrom (s t : State) : Prop where
  lcdc : t.lcd.lcdc = s.lcd.lcdc
  line : LineOk t.lcd.mode t.lcd.ly
  next : ∃ n, t.lcd.lcdNext = .cycle n ∧ s.cycles < n

namespace ScheduledFrom

variable {s : State}

theorem lcdStart : ScheduledFrom s (lcdStart s) := by
  simp only [Machine.lcdStart, setLy_eq, enterMode_eq, setLcdNext]
  exact ⟨rfl, .zero nofun, _, rfl, by omega⟩

theorem lcdEndOamScan (h : s.lcd.ly.toNat < 144) : ScheduledFrom s (lcdEndOamScan s) := by
  simp only [Machine.lcdEndOamScan, enterMode_eq, setLcdNext]
  exact ⟨rfl, .of_visible nofun h, _, rfl, by omega⟩

theorem lcdEndTransfer (h : s.lcd.ly.toNat < 144) : ScheduledFrom s (lcdEndTransfer s) := by
  simp only [Machine.lcdEndTransfer, enterMode_eq, setLcdNext]
  exact ⟨rfl, .of_visible nofun h, _, rfl, by omega⟩

theorem lcdEndHblank (h : s.lcd.ly.toNat < 144) : ScheduledFrom s (lcdEndHblank s) := by
  unfold Machine.lcdEndHblank
  split
  · simp only [setLy_eq, enterMode_eq, setLcdNext, request]
    exact ⟨rfl, .of_vblank (ly := 144) (by decide), _, rfl, by omega⟩
  · have hly : (s.lcd.ly + 1).toNat < 144 := by bv_omega
    simp only [setLy_eq, enterMode_eq, setLcdNext]
    exact ⟨rfl, .of_visible nofun hly, _, rfl, by omega⟩

theorem lcdEndVblankLine (hm : s.lcd.mode = .vblank) (h : 144 ≤ s.lcd.ly.toNat ∧ s.lcd.ly.toNat < 154) :
    ScheduledFrom s (lcdEndVblankLine s) := by
  unfold Machine.lcdEndVblankLine
  split
  · simp only [setLy_eq, enterMode_eq, setLcdNext]
    exact ⟨rfl, .zero nofun, _, rfl, by omega⟩
  · have hly : 144 ≤ (s.lcd.ly + 1).toNat ∧ (s.lcd.ly + 1).toNat < 154 := by bv_omega
    simp only [setLy_eq, setLcdNext]
    exact ⟨rfl, hm ▸ .of_vblank hly, _, rfl, by omega⟩

/-- An enabled display: it starts, or its event is due, or it waits. -/
theorem lcdStep (h : DisplayOk s.cycles s.lcd) (on : lcdcBit s.lcd 7 = true) : ScheduledFrom s (lcdStep s) := by
  obtain ⟨vblank, visible⟩ := h.line
  rw [Machine.lcdStep, if_pos on]
  split
  · exact lcdStart
  · rename_i n hn
    split
    · split
      all_goals rename_i hmode; rw [hmode] at visible vblank
      · exact lcdEndOamScan (visible nofun)
      · exact lcdEndTransfer (visible nofun)
      · exact lcdEndHblank (visible nofun)
      · exact lcdEndVblankLine hmode (vblank rfl)
    · rename_i hne
      exact ⟨rfl, h.line, n, hn, lt_of_le_of_ne (h.next n hn) hne⟩

end ScheduledFrom

/-- After the display's step of a cycle, its next event is in a later one; a disabled display has none. -/
theorem DisplayOk.lcdStep {s : State} (h : DisplayOk s.cycles s.lcd) : DisplayOk (s.cycles + 1) (lcdStep s).lcd := by
  by_cases on : lcdcBit s.lcd 7 = true
  · obtain ⟨vram, oam, dmaIndex, -⟩ := lcdStep_stores s
    obtain ⟨lcdc, ⟨vblank, visible⟩, n, hn, hlt⟩ := ScheduledFrom.lcdStep h on
    refine ⟨⟨vblank, visible, fun off => ?_, dmaIndex ▸ h.regs.dma⟩, vram ▸ h.vram, oam ▸ h.oam, fun m hm => ?_⟩
    · rw [lcdcBit, lcdc] at off
      exact absurd on (Bool.eq_false_iff.mp off)
    · cases hn.symm.trans hm
      exact hlt
  · rw [Machine.lcdStep, if_neg on]
    obtain ⟨halted, -, -⟩ := h.regs.off (Bool.eq_false_iff.mpr on)
    exact ⟨h.regs, h.vram, h.oam, fun n hn => nomatch halted.symm.trans hn⟩

/-! ## The devices keep their invariant -/

/-- The devices' part of the invariant, the display's next event not before cycle `c`. -/
structure DevicesOk (c : Nat) (s : State) : Prop where
  hram : MemOk 127 s.hram
  wram : MemOk 8192 s.wram
  bootRom : MemOk 256 s.bootRom
  cart : CartridgeOk s.cart
  display : DisplayOk c s.lcd

namespace DevicesOk

variable {c : Nat} {s : State}

theorem of_eq {t : State} (h : DevicesOk c s) (hram : t.hram = s.hram) (wram : t.wram = s.wram)
    (bootRom : t.bootRom = s.bootRom) (cart : t.cart = s.cart) (lcd : t.lcd = s.lcd) : DevicesOk c t :=
  ⟨hram ▸ h.hram, wram ▸ h.wram, bootRom ▸ h.bootRom, cart ▸ h.cart, lcd ▸ h.display⟩

theorem of_sameDevices {t : State} (h : DevicesOk c s) (hd : SameDevices s t) : DevicesOk c t :=
  h.of_eq hd.hram hd.wram hd.bootRom hd.cart hd.lcd

/-! ### A bus write, device by device (20_memory.md R206) -/

section
variable (a : Word) (v : Byte)

theorem cpuDevWrite (h : DevicesOk c s) : DevicesOk c (cpuDevWrite a v s) := by
  unfold Machine.cpuDevWrite
  split_ifs with hif hcell
  · exact h.of_eq rfl rfl rfl rfl rfl
  · exact ⟨h.hram.memWrite (by omega) v, h.wram, h.bootRom, h.cart, h.display⟩
  · exact h.of_eq rfl rfl rfl rfl rfl
  · exact h

theorem muxWrite (h : DevicesOk c s) : DevicesOk c (muxWrite a v s) := by
  have latch : DevicesOk c (if a = 0xFF50 then { s with bootDisabled := true } else s) := by
    split
    · exact h.of_eq rfl rfl rfl rfl rfl
    · exact h
  unfold Machine.muxWrite
  dsimp only
  split
  · exact ⟨latch.hram, latch.wram, latch.bootRom, latch.cart.cartWrite a.toNat v, latch.display⟩
  · exact latch

theorem lcdWrite (h : DevicesOk c s) : DevicesOk c (lcdWrite a v s) := by
  have hl := h.display.lcdWrite a v
  rw [lcdWrite_frame]
  exact ⟨h.hram, h.wram, h.bootRom, h.cart, hl⟩

theorem wramViewWrite {p q : Nat} (hq : q ≤ p + 8192) (h : DevicesOk c s) : DevicesOk c (wramViewWrite p q a v s) := by
  unfold Machine.wramViewWrite
  split
  · exact ⟨h.hram, h.wram.memWrite (by omega) v, h.bootRom, h.cart, h.display⟩
  · exact h

theorem timerWrite (h : DevicesOk c s) : DevicesOk c (timerWrite a v s) := by
  rw [timerWrite_frame]; exact h.of_eq rfl rfl rfl rfl rfl

theorem busWrite (h : DevicesOk c s) : DevicesOk c (busWrite a v s) :=
  ((((h.cpuDevWrite a v).muxWrite a v).lcdWrite a v).wramViewWrite a v (by decide)).wramViewWrite a v (by decide)
    |>.timerWrite a v

end

theorem of_devicesAfterWrites {t : State} (h : DevicesOk c s) (hw : DevicesAfterWrites s t) : DevicesOk c t := by
  obtain ⟨ws, hd⟩ := hw
  exact (busWrites_ind (fun a v _ hu => hu.busWrite a v) ws h).of_sameDevices hd

/-! ### One cycle -/

/-- The devices' steps of a cycle leave the display's next event in a later one. -/
theorem devicesStep (h : DevicesOk s.cycles s) : DevicesOk (s.cycles + 1) (devicesStep s) := by
  have htimer : DisplayOk s.cycles (timerStep s).lcd := by rw [timerStep_frame]; exact h.display
  have hcycles : (Machine.dmaStep (timerStep s)).cycles = s.cycles := by rw [dmaStep_frame, timerStep_frame]
  have hl := (hcycles ▸ htimer.dmaStep : DisplayOk (Machine.dmaStep (timerStep s)).cycles _).lcdStep
  rw [hcycles] at hl
  rw [devicesStep_frame]
  exact ⟨h.hram, h.wram, h.bootRom, h.cart, hl⟩

theorem serviceBoundary (h : DevicesOk c s) : DevicesOk c (serviceBoundary s) :=
  have hbase : DevicesOk c (serviceBase s) := h.of_eq rfl rfl rfl rfl rfl
  hbase.of_devicesAfterWrites (serviceBoundary_devices s)

/-- An instruction, run at any pc, and the end of its boundary. -/
theorem executed {u : State} {i : Instr} {pc : Word} (h : DevicesOk c s) (hu : exec i { s with pc := pc } = .next u) :
    DevicesOk c (finishBoundary s u) :=
  have hpc : DevicesOk c { s with pc := pc } := h.of_eq rfl rfl rfl rfl rfl
  (hpc.of_devicesAfterWrites (exec_devices i _ u hu)).of_sameDevices (sameDevices_finishBoundary s u)

end DevicesOk

/-! ## The CPU's sequencing state keeps its invariant (10_state.md R110, R111; 45_system.md R602, R606) -/

/-- The CPU's part of the invariant, its next fetch boundary not before cycle `c`. -/
structure CpuOk (c : Nat) (s : State) : Prop where
  next : s.fault = none → ∀ n, s.nextCycle = .cycle n → c ≤ n
  eiDelay : s.imePending = true → s.params.eiDelay = true
  haltBug : s.haltBugPending = true → s.params.haltBug = true

/-- The invariant is the devices' part and the CPU's. -/
theorem State.inv_iff (s : State) : s.Inv ↔ DevicesOk s.cycles s ∧ CpuOk s.cycles s := by
  constructor
  · rintro ⟨⟨hram, wram, vram, oam, bootRom, rom, ram⟩, cart, lcd, ⟨cpuNext, lcdNext, eiDelay, haltBug⟩⟩
    exact ⟨⟨hram, wram, bootRom, ⟨cart, rom, ram⟩, ⟨lcd, vram, oam, lcdNext⟩⟩, ⟨cpuNext, eiDelay, haltBug⟩⟩
  · rintro ⟨⟨hram, wram, bootRom, ⟨cart, rom, ram⟩, ⟨lcd, vram, oam, lcdNext⟩⟩, ⟨cpuNext, eiDelay, haltBug⟩⟩
    exact ⟨⟨hram, wram, vram, oam, bootRom, rom, ram⟩, cart, lcd, ⟨cpuNext, lcdNext, eiDelay, haltBug⟩⟩

/-- Bus writes, and what else an instruction does to the devices, take no cycle of the counter. -/
theorem DevicesAfterWrites.cycles {s t : State} (h : DevicesAfterWrites s t) : t.cycles = s.cycles := by
  obtain ⟨ws, hw⟩ := h
  exact hw.cycles.trans (busWrites_ind (P := fun u => u.cycles = s.cycles) (fun a v u hu => by simp [hu]) ws rfl)

theorem serviceBoundary_cycles (s : State) : (serviceBoundary s).cycles = s.cycles := by simp [serviceBoundary]

theorem executed_cycles {s u : State} {i : Instr} {pc : Word} (h : exec i { s with pc := pc } = .next u) :
    (finishBoundary s u).cycles = s.cycles :=
  (sameDevices_finishBoundary s u).cycles.trans (exec_devices i _ u h).cycles

theorem wake_cycles (s : State) : (wake s).cycles = s.cycles := by rw [wake_frame]

/-- The end of a boundary sets neither open behaviour's mark. -/
theorem finishBoundary_pending (s0 s : State) :
    ((finishBoundary s0 s).imePending = true → s.imePending = true) ∧
    ((finishBoundary s0 s).haltBugPending = true → s.haltBugPending = true) := by
  unfold finishBoundary
  dsimp only
  split_ifs
  · exact ⟨id, id⟩
  · exact ⟨nofun, fun h => (Bool.and_eq_true_iff.mp h).1⟩
  · exact ⟨id, fun h => (Bool.and_eq_true_iff.mp h).1⟩

theorem finishBoundary_nextCycle (s0 s : State) : (finishBoundary s0 s).nextCycle = s.nextCycle := by
  unfold finishBoundary
  dsimp only
  split_ifs <;> rfl

namespace CpuOk

variable {s : State}

/-- The devices leave the CPU alone, and a wake-up makes the current cycle its boundary, which is not a past one. -/
theorem wake_devicesStep (h : CpuOk s.cycles s) : CpuOk s.cycles (wake (devicesStep s)) := by
  obtain ⟨next, eiDelay, haltBug⟩ := h
  unfold wake
  split
  · refine ⟨fun _ n hn => ?_, by simpa using eiDelay, by simpa using haltBug⟩
    cases hn
    simp
  · exact ⟨by simpa using next, by simpa using eiDelay, by simpa using haltBug⟩

/-- A CPU that is not at a boundary has it in a later cycle. -/
theorem of_not_atBoundary (h : CpuOk s.cycles s) (hb : atBoundary s = false) : CpuOk (s.cycles + 1) s := by
  refine ⟨fun hf n hn => lt_of_le_of_ne (h.next hf n hn) ?_, h.eiDelay, h.haltBug⟩
  rintro rfl
  exact of_decide_eq_false hb hn

theorem serviceBoundary : CpuOk (s.cycles + 1) (serviceBoundary s) := by
  refine ⟨fun _ n hn => ?_, fun hp => ?_, fun hp => ?_⟩
  · cases hn
    omega
  · simp [Machine.serviceBoundary] at hp
  · simp [Machine.serviceBoundary] at hp

/-- An instruction, run at any pc, and the end of its boundary. -/
theorem executed {u : State} {i : Instr} {pc : Word} (h : CpuOk s.cycles s)
    (hu : exec i { s with pc := pc } = .next u) : CpuOk (s.cycles + 1) (finishBoundary s u) := by
  obtain ⟨next, -, eiDelay, haltBug⟩ := exec_sequenced i _ u hu
  have hparams : (finishBoundary s u).params = s.params := (KeepsRomsAndLatch.executed hu).params
  obtain ⟨himePending, hhaltBugPending⟩ := finishBoundary_pending s u
  refine ⟨fun hf n hn => ?_, fun hp => ?_, fun hp => ?_⟩
  · rw [finishBoundary_fault] at hf
    rw [finishBoundary_nextCycle] at hn
    obtain hhalted | ⟨cost, hcost, hahead⟩ := next hf
    · cases hhalted.symm.trans hn
    · cases hahead.symm.trans hn
      exact Nat.add_le_add_left hcost s.cycles
  · rw [hparams]
    exact (eiDelay (himePending hp)).elim h.eiDelay id
  · rw [hparams]
    exact (haltBug (hhaltBugPending hp)).elim h.haltBug id

end CpuOk

/-- At the end of a cycle in which both parts came to look past it, the invariant holds again. -/
theorem inv_endCycle {c : Nat} {s : State} (hc : s.cycles = c) (hdev : DevicesOk (c + 1) s) (hcpu : CpuOk (c + 1) s) :
    (endCycle s).Inv := by
  subst hc
  exact (State.inv_iff _).mpr ⟨hdev.of_eq rfl rfl rfl rfl rfl, hcpu.next, hcpu.eiDelay, hcpu.haltBug⟩

/-- Settles O11: the devices' steps, an instruction's or a service's bus writes, and the CPU's own moves each keep the
part of the invariant that is theirs, and leave both next events in a later cycle. -/
theorem stepKeepsInvariant : Obligations.StepKeepsInvariant := by
  intro s t hs h
  obtain ⟨hdev, hcpu⟩ := (State.inv_iff s).mp hs
  have hcycles : (wake (devicesStep s)).cycles = s.cycles := by rw [wake_cycles, devicesStep_cycles]
  have hdev' : DevicesOk (s.cycles + 1) (wake (devicesStep s)) := by
    rw [wake_frame]; exact hdev.devicesStep.of_eq rfl rfl rfl rfl rfl
  have hcpu' := hcpu.wake_devicesStep
  rw [← hcycles] at hdev' hcpu'
  obtain ⟨-, ⟨hb, rfl⟩ | ⟨-, -, rfl⟩ | ⟨-, -, u, hu, rfl⟩⟩ := step_cases h
  · exact inv_endCycle rfl hdev' (hcpu'.of_not_atBoundary hb)
  · exact inv_endCycle (serviceBoundary_cycles _) hdev'.serviceBoundary .serviceBoundary
  · exact inv_endCycle (executed_cycles hu) (hdev'.executed hu) (hcpu'.executed hu)

/-! ## The wake-up of a halted CPU (45_system.md R609) -/

theorem wake_of_not_halted {s : State} (h : s.nextCycle ≠ .halted) : wake s = s := if_neg fun hw => h hw.1

theorem wake_of_no_irq {s : State} (h : pendingIrqs s = 0) : wake s = s := if_neg fun hw => hw.2 h

theorem atBoundary_wake {s : State} (hs : s.nextCycle = .halted) (hp : pendingIrqs s ≠ 0) :
    atBoundary (wake s) = true := by
  rw [wake, if_pos ⟨hs, hp⟩]
  exact decide_eq_true rfl

/-- A CPU that no wake-up concerns and that is not at a boundary lets the devices' steps be the whole cycle. -/
theorem step_devices {s : State} (hf : s.fault = none) (hw : wake (devicesStep s) = devicesStep s)
    (hb : atBoundary (devicesStep s) = false) : step s = .next { devicesStep s with cycles := s.cycles + 1 } := by
  rw [step_idle hf hw hb, endCycle, devicesStep_cycles]

/-- Settles O8: an idle CPU, and a halted one with nothing pending, pass over the cycle; a pending interrupt wakes. -/
theorem idleAndHaltedCpu : Obligations.IdleAndHaltedCpu := by
  intro s hf e
  refine ⟨fun n hn hne => ?idle, fun hh hp => ?asleep, fun hh hp => atBoundary_wake hh hp⟩
  case idle =>
    have hb : atBoundary e = false := decide_eq_false fun h => hne (NextCycle.cycle.inj (hn.symm.trans h))
    exact step_devices hf (wake_of_not_halted (hn ▸ nofun)) hb
  case asleep =>
    have hb : atBoundary e = false := decide_eq_false fun h => nomatch hh.symm.trans h
    exact step_devices hf (wake_of_no_irq hp) hb

/-! ## A byte written is read back where a device stores it (20_memory.md R216, R250) -/

/-! ### Open cartridge RAM (R237) -/

section
variable {c : Cart} {a : Nat} (hk : c.kind = .mbc1) (ho : mbc1RamOpen c = true) (ha : 0xA000 ≤ a ∧ a < 0xC000)
include hk ho ha

theorem cartRead_ram : cartRead a c = some (memRead c.ram (mbc1RamIndex c a)) := by
  simp only [cartRead, hk]
  rw [if_neg (by omega), if_pos ha, if_pos ho]

theorem cartWrite_ram (v : Byte) : cartWrite a v c = { c with ram := memWrite c.ram (mbc1RamIndex c a) v } := by
  simp only [cartWrite, hk]
  rw [if_neg (by omega), if_neg (by omega), if_neg (by omega), if_neg (by omega), if_pos ha, if_pos ho]

/-- The cell is chosen by the bank registers, which a RAM write leaves. -/
theorem cartRead_cartWrite_ram (v : Byte) : cartRead a (cartWrite a v c) = some v := by
  have hread := cartRead_ram (c := { c with ram := memWrite c.ram (mbc1RamIndex c a) v }) hk ho ha
  rw [cartWrite_ram hk ho ha, hread]
  exact congrArg some (memRead_memWrite_same _ _ v)

end

/-! ### Registers -/

section
variable (v : Byte) (s : State)

theorem writeLcdc_lcdc : (writeLcdc v s).lcd.lcdc = v := by
  unfold writeLcdc
  dsimp only
  split
  · simp only [setLy_eq, setLcdNext]
  · rfl

/-- The display's registers that are plain bytes: all but STAT and LY. -/
theorem lcdRead_lcdWrite_same {a : Word} (ha : a ∈ ([0xFF40, 0xFF42, 0xFF43, 0xFF45, 0xFF46, 0xFF47, 0xFF48, 0xFF49,
    0xFF4A, 0xFF4B] : List Word)) : lcdRead a (lcdWrite a v s) = some v := by
  simp only [List.mem_cons, List.not_mem_nil, or_false] at ha
  obtain rfl | rfl | rfl | rfl | rfl | rfl | rfl | rfl | rfl | rfl := ha
  · exact congrArg some (writeLcdc_lcdc v s)
  · rfl
  · rfl
  · exact congrArg some (congrArg (·.lcd.lyc) (checkLyc_eq _))
  all_goals rfl

end

/-- Where a device stores a byte, a read of the bus gives it back, window by window. -/
theorem busRead_busWrite_of_storesByte {s : State} {a : Word} (h : storesByte s a = true) (v : Byte) :
    busRead a (busWrite a v s) = v := by
  simp only [storesByte, inCartRam, Bool.or_eq_true, Bool.and_eq_true, decide_eq_true_eq, beq_iff_eq] at h
  cases Window.of_address a with
  | mux hw =>
    have ha : 0xA000 ≤ a.toNat ∧ a.toNat < 0xC000 := by bv_omega
    obtain ⟨hk, ho⟩ : s.cart.kind = .mbc1 ∧ mbc1RamOpen s.cart = true := by
      by_contra hc
      simp only [and_assoc, hc, and_false, or_false] at h
      bv_omega
    have hmux : muxForwards a = true := by simp [muxForwards]; omega
    rw [busWrite_mux _ _ hw, busRead_mux _ hw, muxRead, if_neg (by simp; omega), if_pos hmux,
      cartRead_cartWrite_ram hk ho ha]
    rfl
  | vram hw hw' => rw [busWrite_vram _ _ hw hw', busRead_vram _ hw hw', memRead_memWrite_same]
  | wram hw hw' => rw [busWrite_wram _ _ hw hw', busRead_wram _ hw hw', memRead_memWrite_same]
  | echo hw hw' => rw [busWrite_echo _ _ hw hw', busRead_echo _ hw hw', memRead_memWrite_same]
  | oam hw hw' => rw [busWrite_oam _ _ hw hw', busRead_oam _ hw hw', memRead_memWrite_same]
  | timer hw hw' =>
    have ha : a = 0xFF05 ∨ a = 0xFF06 := by bv_omega
    rw [busWrite_timerReg _ _ hw hw', busRead_timerReg _ hw hw']
    obtain rfl | rfl := ha <;> rfl
  | interruptFlag hw => bv_omega
  | lcd hw hw' =>
    have ha : a ∈ ([0xFF40, 0xFF42, 0xFF43, 0xFF45, 0xFF46, 0xFF47, 0xFF48, 0xFF49, 0xFF4A, 0xFF4B] : List Word) := by
      simp only [List.mem_cons, List.not_mem_nil, or_false]
      bv_omega
    rw [busWrite_lcdReg _ _ hw hw', busRead_lcdReg _ hw hw', lcdRead_lcdWrite_same v s ha]
    rfl
  | hram hw hw' => rw [busWrite_hram _ _ hw hw', busRead_hram _ hw hw', memRead_memWrite_same]
  | interruptEnable hw => subst hw; rw [busWrite_ie, busRead_ie]
  | none hw => bv_omega

/-- Settles O19: stored bytes window by window; IF keeps the low five bits, and its other three read 1. -/
theorem readAfterWrite : Obligations.ReadAfterWrite := by
  intro s a v
  refine ⟨fun h => busRead_busWrite_of_storesByte h v, ?_, ?_, busWrite_ie s v, busRead_ie s⟩
  · rw [busWrite_if, BitVec.ofNat_toNat]
  · rw [busRead_if]
    exact (by decide : ∀ x : BitVec 5, ((0xE0 : Byte) ||| x.setWidth 8).toNat = 0xE0 + x.toNat) s.iflag

end Sys2Proof.Machine
end

section
namespace Sys2Proof.Machine

/-! ## The loader, case by case (20_memory.md R225) -/

/-- The sizes R225 lists are the powers of two between its ends. -/
theorem mem_mbc1RomSizes {n : Nat} : n ∈ mbc1RomSizes ↔ ∃ k, 15 ≤ k ∧ k ≤ 21 ∧ n = 2 ^ k := by
  have hpowers : mbc1RomSizes = (List.range' 15 7).map (2 ^ ·) := by decide
  rw [hpowers]
  simp only [List.mem_map, List.mem_range'_1]
  exact exists_congr fun k => ⟨fun ⟨hk, hn⟩ => ⟨hk.1, by omega, hn.symm⟩, fun ⟨hlo, hhi, hn⟩ => ⟨by omega, hn.symm⟩⟩

theorem le_of_mem_mbc1RomSizes {n : Nat} (h : n ∈ mbc1RomSizes) : 32768 ≤ n := by
  obtain ⟨k, hlo, -, rfl⟩ := mem_mbc1RomSizes.mp h
  calc 32768 = 2 ^ 15 := rfl
    _ ≤ 2 ^ k := Nat.pow_le_pow_right (by decide) hlo

/-- Header byte 0x149 gives a RAM size when it is at most 3. -/
theorem ramSizeOfHeader_of_le {r : Byte} (h : r.toNat ≤ 3) :
    ramSizeOfHeader r = some (if r = 0 then 0 else if r = 1 then 2048 else if r = 2 then 8192 else 32768) := by
  revert r; decide

theorem ramSizeOfHeader_of_gt {r : Byte} (h : ¬ r.toNat ≤ 3) : ramSizeOfHeader r = none := by
  revert r; decide

theorem mem_of_ramSizeOfHeader {r : Byte} {k : Nat} (h : ramSizeOfHeader r = some k) : k ∈ [0, 2048, 8192, 32768] := by
  by_cases hr : r.toNat ≤ 3
  · rw [ramSizeOfHeader_of_le hr, Option.some.injEq] at h
    subst h
    split_ifs <;> decide
  · rw [ramSizeOfHeader_of_gt hr] at h
    cases h

section
variable (n : Nat) (image ram : List Host.Cell)

/-- An image that R225 accepts without a bank controller. -/
def UnbankedImage : Prop := memRead (memOfCells n image) 0x147 = 0 ∧ n = 32768

/-- The header and the size of an image that R225 accepts for MBC1, its RAM size `k`. -/
def BankedImage (k : Nat) : Prop :=
  (memRead (memOfCells n image) 0x147 = 1 ∨ memRead (memOfCells n image) 0x147 = 2 ∨
    memRead (memOfCells n image) 0x147 = 3) ∧ n ∈ mbc1RomSizes ∧
  ramSizeOfHeader (memRead (memOfCells n image) 0x149) = some k

variable {n image}

theorem loadCart_unbanked (h : UnbankedImage n image) :
    loadCart n image ram = .ok (freshCart .mbc0 n (memOfCells n image) 0 []) := by
  obtain ⟨ht, hn⟩ := h
  simp only [loadCart]
  rw [if_neg (by omega), if_pos ht, if_neg (not_not.mpr hn)]

theorem loadCart_banked {k : Nat} (h : BankedImage n image k) :
    loadCart n image ram = .ok (freshCart .mbc1 n (memOfCells n image) k (memOfCells k ram)) := by
  obtain ⟨ht, hn, hr⟩ := h
  have hsize := le_of_mem_mbc1RomSizes hn
  have ht0 : memRead (memOfCells n image) 0x147 ≠ 0 := by
    obtain ht | ht | ht := ht <;> rw [ht] <;> decide
  simp only [loadCart]
  rw [if_neg (by omega), if_neg ht0, if_pos ht, if_neg (not_not.mpr hn), hr]

/-- Any other image is refused, with header byte 0x147 and the length (60_exceptions.md R701). -/
theorem loadCart_refused (h0 : ¬ UnbankedImage n image) (h1 : ∀ k, ¬ BankedImage n image k) :
    loadCart n image ram = .error (.cartridgeUnsupported (memRead (memOfCells n image) 0x147) n) := by
  simp only [loadCart]
  split_ifs with hshort ht hn ht' hn'
  · rfl
  · rfl
  · exact absurd ⟨ht, not_not.mp hn⟩ h0
  · cases hr : ramSizeOfHeader (memRead (memOfCells n image) 0x149) with
    | none => rfl
    | some k => exact absurd ⟨ht', hn', hr⟩ (h1 k)
  · rfl
  · rfl

/-- What an accepted image is, and the cartridge it gives. -/
theorem loadCart_ok_cases {ram : List Host.Cell} {c : Cart} (h : loadCart n image ram = .ok c) :
    (UnbankedImage n image ∧ c = freshCart .mbc0 n (memOfCells n image) 0 []) ∨
    ∃ k, BankedImage n image k ∧ c = freshCart .mbc1 n (memOfCells n image) k (memOfCells k ram) := by
  by_cases h0 : UnbankedImage n image
  · rw [loadCart_unbanked ram h0] at h
    exact .inl ⟨h0, (Except.ok.inj h).symm⟩
  by_cases h1 : ∃ k, BankedImage n image k
  · obtain ⟨k, hk⟩ := h1
    rw [loadCart_banked ram hk] at h
    exact .inr ⟨k, hk, (Except.ok.inj h).symm⟩
  · rw [loadCart_refused ram h0 (not_exists.mp h1)] at h
    cases h

end

/-- Settles O23: the three cases of the loader; a refusal does not look at the initial cartridge RAM, so no launch with
the image makes a machine. -/
theorem cartridgeLoad : Obligations.CartridgeLoad := by
  intro n image ram rom t r banked
  refine ⟨fun _ ht hn => ⟨_, loadCart_unbanked ram ⟨ht, hn⟩, rfl, rfl, rfl, rfl⟩, ?_, fun hno => ?_⟩
  · rintro - ⟨ht, hn, hr⟩
    exact ⟨_, loadCart_banked ram ⟨ht, mem_mbc1RomSizes.mpr hn, ramSizeOfHeader_of_le hr⟩, rfl, rfl, rfl, rfl⟩
  · have h0 : ¬ UnbankedImage n image := fun ⟨ht, hn⟩ => hno ⟨by omega, .inl ⟨ht, hn⟩⟩
    have h1 (k : Nat) : ¬ BankedImage n image k := by
      rintro ⟨ht, hn, hr⟩
      have hsize := le_of_mem_mbc1RomSizes hn
      have hr3 : r.toNat ≤ 3 := by
        by_contra hgt
        rw [ramSizeOfHeader_of_gt hgt] at hr
        cases hr
      exact hno ⟨by omega, .inr ⟨ht, mem_mbc1RomSizes.mp hn, hr3⟩⟩
    refine ⟨t, fun _ => rfl, loadCart_refused ram h0 h1, ?_⟩
    rintro l rfl rfl
    rw [construct, loadCart_refused l.initCartRam h0 h1]

/-! ## Every launch meets the invariant (70_reset_and_hazards.md R901, R906, R930) -/

theorem CartridgeOk.of_loadCart {n : Nat} {image ram : List Host.Cell} {c : Cart} (h : loadCart n image ram = .ok c) :
    CartridgeOk c := by
  obtain ⟨⟨-, hn⟩, rfl⟩ | ⟨k, ⟨-, hn, hr⟩, rfl⟩ := loadCart_ok_cases h
  · have hsize : 0x150 ≤ n := by omega
    exact ⟨⟨(by decide : (1 : BitVec 5) ≠ 0), hsize, fun _ => ⟨hn, rfl⟩, nofun⟩, memOfCells_wf _ _, ⟨rfl, rfl⟩⟩
  · have hsize : 0x150 ≤ n := le_trans (by decide) (le_of_mem_mbc1RomSizes hn)
    exact ⟨⟨(by decide : (1 : BitVec 5) ≠ 0), hsize, nofun, fun _ => ⟨hn, mem_of_ramSizeOfHeader hr⟩⟩,
      memOfCells_wf _ _, memOfCells_wf _ _⟩

/-- The display of R901: off, on line 0 in mode 0, its counter HALTED. -/
theorem DisplayOk.bootRomState (l : Launch) (c : Cart) : DisplayOk 0 (bootRomState l c).lcd :=
  ⟨⟨nofun, (LineOk.zero (m := .hblank) nofun).2, fun _ => ⟨rfl, rfl, rfl⟩, le_refl 160⟩, memOfCells_wf _ _,
    memOfCells_wf _ _, nofun⟩

/-- The display of R906 is on (LCDC = 0x91), and the rest of it is R901's. -/
theorem DisplayOk.postBootState (l : Launch) (c : Cart) : DisplayOk 0 (postBootState l c).lcd := by
  obtain ⟨⟨vblank, visible, -, dma⟩, vram, oam, next⟩ := DisplayOk.bootRomState l c
  have hon : lcdcBit (Machine.postBootState l c).lcd 7 = true :=
    (by decide : (0x91 : Byte).getLsbD 7 = true)
  exact ⟨⟨vblank, visible, fun hoff => absurd (hon.symm.trans hoff) nofun, dma⟩, vram, oam, next⟩

theorem inv_bootRomState (l : Launch) {c : Cart} (hc : CartridgeOk c) : (bootRomState l c).Inv :=
  (State.inv_iff _).mpr ⟨⟨memOfCells_wf _ _, memOfCells_wf _ _, memOfCells_wf _ _, hc, .bootRomState l c⟩,
    ⟨fun _ n _ => Nat.zero_le n, nofun, nofun⟩⟩

theorem inv_postBootState (l : Launch) {c : Cart} (hc : CartridgeOk c) : (postBootState l c).Inv := by
  obtain ⟨⟨hram, wram, bootRom, cart, -⟩, ⟨next, eiDelay, haltBug⟩⟩ := (State.inv_iff _).mp (inv_bootRomState l hc)
  exact (State.inv_iff _).mpr ⟨⟨hram, wram, bootRom, cart, .postBootState l c⟩, ⟨next, eiDelay, haltBug⟩⟩

/-- What `construct` makes: the launch state of the boot mode, around a cartridge the loader accepts. -/
theorem construct_ok_cases {l : Launch} {s : State} (h : construct l = .ok s) :
    ∃ c, loadCart l.romSize l.cart l.initCartRam = .ok c ∧
      (l.bootMode = .runBootRom ∧ s = bootRomState l c ∨ l.bootMode = .postBoot ∧ s = postBootState l c) := by
  unfold construct at h
  split at h
  · cases h
  next c hload =>
    refine ⟨c, hload, ?_⟩
    cases hm : l.bootMode with
    | runBootRom =>
      rw [hm] at h
      exact .inl ⟨rfl, (Except.ok.inj h).symm⟩
    | postBoot =>
      rw [hm] at h
      exact .inr ⟨rfl, (Except.ok.inj h).symm⟩

/-- Settles O13: both launch states meet the invariant around any cartridge the loader accepts. -/
theorem constructMeetsInvariant : Obligations.ConstructMeetsInvariant := by
  intro l s h
  obtain ⟨c, hload, ⟨-, rfl⟩ | ⟨-, rfl⟩⟩ := construct_ok_cases h
  · exact ⟨inv_bootRomState l (.of_loadCart hload), rfl, rfl, rfl, rfl, rfl⟩
  · exact ⟨inv_postBootState l (.of_loadCart hload), rfl, rfl, rfl, rfl, rfl⟩

/-! ## The address map: the echo, the gaps, and the frame of a write (20_memory.md R206, R212, R213, R215) -/

/-- Settles O17: a cell's two addresses are 0x2000 apart. -/
theorem echoMirrorsWorkRam : Obligations.EchoMirrorsWorkRam := by
  intro s a
  refine ⟨fun hlo hhi => ?_, busRead_wram s⟩
  have hsub : (a - 0x2000).toNat = a.toNat - 0x2000 := by bv_omega
  have hcell : (a - 0x2000).toNat - 0xC000 = a.toNat - 0xE000 := by omega
  have hlo' : 0xC000 ≤ (a - 0x2000).toNat := by omega
  have hhi' : (a - 0x2000).toNat < 0xE000 := by omega
  refine ⟨?_, busRead_echo s hlo hhi, fun v => ?_⟩
  · rw [busRead_echo s hlo hhi, busRead_wram s hlo' hhi', hcell]
  · rw [busWrite_echo s v hlo hhi, busWrite_wram s v hlo' hhi', hcell]

/-- Settles O20: whatever window the write is in, its device shows the change at the addresses it reaches alone. -/
theorem writeReachesOnlyItsAddresses : Obligations.WriteReachesOnlyItsAddresses :=
  fun s _ _ v => busRead_busWrite_of_not_reach v s

/-- The four gaps above OAM, where no device answers. -/
abbrev InGap (a : Word) : Prop :=
  0xFEA0 ≤ a.toNat ∧ a.toNat < 0xFF04 ∨ 0xFF08 ≤ a.toNat ∧ a.toNat < 0xFF0F ∨
  0xFF10 ≤ a.toNat ∧ a.toNat < 0xFF40 ∨ 0xFF4C ≤ a.toNat ∧ a.toNat < 0xFF80

/-- An address of no device answers the open bus. -/
theorem busRead_gap {a : Word} (h : InGap a) (s : State) : busRead a s = 0xFF := by
  have hif : a ≠ 0xFF0F := ne_of_toNat (n := 0xFF0F) (by omega)
  rw [busRead, deviceRead, cpuDevRead_none (by omega) hif, muxRead_none (by omega) (by omega),
    lcdRead_none (by omega) (by omega) (by omega), wramViewRead_none (by omega), wramViewRead_none (by omega),
    timerRead_none (by omega)]
  rfl

/-! ### Through the multiplexer (R220, R226) -/

section
variable {a : Word} (s : State)

/-- While it is mapped, the boot ROM answers below 0x0100. -/
theorem busRead_bootRom (hb : s.bootDisabled = false) (ha : a.toNat ≤ 0xFF) :
    busRead a s = memRead s.bootRom a.toNat := by
  rw [busRead_mux s (by omega), muxRead, hb, decide_eq_true ha]
  rfl

/-- Elsewhere in its windows, and below 0x0100 once the latch is set, the cartridge answers. -/
theorem busRead_cart (hb : s.bootDisabled = true ∨ 0xFF < a.toNat)
    (ha : a.toNat < 0x8000 ∨ 0xA000 ≤ a.toNat ∧ a.toNat < 0xC000) :
    busRead a s = (cartRead a.toNat s.cart).getD 0xFF := by
  have hforward : muxForwards a = true := by simp [muxForwards]; omega
  have hoff : ¬ (!s.bootDisabled && decide (a.toNat ≤ 0xFF)) = true := by
    obtain hb | hb := hb <;> simp [hb]
  rw [busRead_mux s ha, muxRead, if_neg hoff, if_pos hforward]

end

/-- MBC0 has no RAM and no registers (R226). -/
theorem cartRead_mbc0_ram {c : Cart} {a : Nat} (hk : c.kind = .mbc0) (ha : 0x8000 ≤ a) : cartRead a c = none := by
  simp only [cartRead, hk]
  exact if_neg (by omega)

theorem cartWrite_mbc0 {c : Cart} (hk : c.kind = .mbc0) (a : Nat) (v : Byte) : cartWrite a v c = c := by
  simp only [cartWrite, hk]

/-- The unclaimed addresses: the gaps above OAM, and MBC0's cartridge RAM window. -/
theorem unclaimed_iff {s : State} {a : Word} :
    unclaimed s a = true ↔ InGap a ∨ (0xA000 ≤ a.toNat ∧ a.toNat < 0xC000) ∧ s.cart.kind = .mbc0 := by
  simp only [unclaimed, inCartRam, Bool.or_eq_true, Bool.and_eq_true, decide_eq_true_eq, or_assoc]

/-- Settles O18: the gaps reach no device but the latch, and MBC0 answers and takes nothing in its RAM window. -/
theorem unclaimedAddresses : Obligations.UnclaimedAddresses := by
  intro s a v h
  obtain hgap | ⟨hram, hk⟩ := unclaimed_iff.mp h
  · refine ⟨busRead_gap hgap s, ?_⟩
    rw [busWrite_gap v s hgap]
    split <;> rfl
  · have h50 : a ≠ 0xFF50 := ne_of_toNat (n := 0xFF50) (by omega)
    rw [busRead_cart s (.inr (by omega)) (.inr hram), cartRead_mbc0_ram hk (by omega), busWrite_mux s v (.inr hram),
      cartWrite_mbc0 hk, if_neg h50]
    exact ⟨rfl, rfl⟩

/-- Settles O21: reads by the latch and the window, writes to the cartridge whatever the latch, and the latch set by
0xFF50 alone. -/
theorem bootRomMultiplexer : Obligations.BootRomMultiplexer := by
  intro s a v
  refine ⟨busRead_bootRom s, fun hb ha => busRead_cart s hb (by omega), fun ha => busWrite_mux s v (by omega),
    fun hlo hram => muxRead_none hlo (by omega) s, busWrite_gap v s (a := 0xFF50) (by decide), fun h50 => ?_⟩
  rw [busWrite_bootDisabled, if_neg h50]

/-! ## MBC1 (20_memory.md R231 to R237) -/

section
variable {c : Cart} {a : Nat} (hk : c.kind = .mbc1)
include hk

/-! ### Control writes, range by range (R231 to R234) -/

theorem cartWrite_ramEnable (ha : a < 0x2000) (v : Byte) :
    cartWrite a v c = { c with ramEnable := decide (v.toNat % 16 = 10) } := by
  simp only [cartWrite, hk, if_pos ha]

theorem cartWrite_romBank5 (ha : 0x2000 ≤ a) (ha' : a < 0x4000) (v : Byte) :
    cartWrite a v c = { c with romBank5 := BitVec.ofNat 5 (if v.toNat % 32 = 0 then 1 else v.toNat % 32) } := by
  have hbank : (if v.setWidth 5 = 0 then 1 else v.setWidth 5) =
      BitVec.ofNat 5 (if v.toNat % 32 = 0 then 1 else v.toNat % 32) := by
    revert v; decide
  simp only [cartWrite, hk]
  rw [if_neg (by omega), if_pos ha', hbank]

theorem cartWrite_bank2 (ha : 0x4000 ≤ a) (ha' : a < 0x6000) (v : Byte) :
    cartWrite a v c = { c with bank2 := BitVec.ofNat 2 v.toNat } := by
  simp only [cartWrite, hk]
  rw [if_neg (by omega), if_neg (by omega), if_pos ha', BitVec.ofNat_toNat]

theorem cartWrite_bankMode (ha : 0x6000 ≤ a) (ha' : a < 0x8000) (v : Byte) :
    cartWrite a v c = { c with bankMode := decide (v.toNat % 2 = 1) } := by
  have hbit : v.getLsbD 0 = decide (v.toNat % 2 = 1) := by
    revert v; decide
  simp only [cartWrite, hk]
  rw [if_neg (by omega), if_neg (by omega), if_neg (by omega), if_pos ha', hbit]

/-! ### ROM reads (R235, R236) -/

theorem cartRead_mbc1_rom (ha : a < 0x8000) : cartRead a c = some (memRead c.rom (mbc1RomIndex c a)) := by
  simp only [cartRead, hk, if_pos ha]

/-! ### RAM that is disabled or absent, and what the controller does not claim (R237) -/

theorem cartRead_closedRam (hc : mbc1RamOpen c = false) (ha : 0xA000 ≤ a ∧ a < 0xC000) : cartRead a c = some 0xFF := by
  simp only [cartRead, hk]
  rw [if_neg (by omega), if_pos ha, hc]
  rfl

theorem cartWrite_closedRam (hc : mbc1RamOpen c = false) (ha : 0xA000 ≤ a ∧ a < 0xC000) (v : Byte) :
    cartWrite a v c = c := by
  simp only [cartWrite, hk]
  rw [if_neg (by omega), if_neg (by omega), if_neg (by omega), if_neg (by omega), if_pos ha, hc]
  rfl

theorem cartRead_mbc1_none (hlo : 0x8000 ≤ a) (hram : ¬ (0xA000 ≤ a ∧ a < 0xC000)) : cartRead a c = none := by
  simp only [cartRead, hk]
  rw [if_neg (by omega), if_neg hram]

theorem cartWrite_mbc1_none (hlo : 0x8000 ≤ a) (hram : ¬ (0xA000 ≤ a ∧ a < 0xC000)) (v : Byte) :
    cartWrite a v c = c := by
  simp only [cartWrite, hk]
  rw [if_neg (by omega), if_neg (by omega), if_neg (by omega), if_neg (by omega), if_neg hram]

end

theorem mbc1RamOpen_eq_true_iff {c : Cart} : mbc1RamOpen c = true ↔ c.ramEnable = true ∧ c.ramSize ≠ 0 := by
  simp only [mbc1RamOpen, Bool.and_eq_true, decide_eq_true_eq]

theorem mbc1RamOpen_eq_false_iff {c : Cart} : mbc1RamOpen c = false ↔ c.ramEnable = false ∨ c.ramSize = 0 := by
  simp only [mbc1RamOpen, Bool.and_eq_false_iff, decide_eq_false_iff_not, not_not]

/-- The upper window's bank number is no multiple of 0x20: its low five bits are not 0. -/
theorem bankNumber_ne_mul {c : Cart} (h : c.romBank5 ≠ 0) (k : Nat) :
    c.bank2.toNat * 32 + c.romBank5.toNat ≠ 0x20 * k := by
  have hpos : c.romBank5.toNat ≠ 0 := fun h0 => h (BitVec.eq_of_toNat_eq h0)
  have hlt : c.romBank5.toNat < 32 := c.romBank5.isLt
  omega

/-- Settles O22: each range of addresses by the cartridge's own equation for it. -/
theorem mbc1Banking : Obligations.Mbc1Banking := by
  intro s a v hk
  refine ⟨?ramEnable, ?romBank5, ?bank2, ?bankMode, ?lowRom, ?highRom, fun hlo hhi => ⟨?closed, ?opened⟩, ?unclaimed,
    bankNumber_ne_mul⟩
  case ramEnable =>
    intro ha
    rw [busWrite_mux s v (by omega), cartWrite_ramEnable hk ha]
  case romBank5 =>
    intro hlo hhi
    rw [busWrite_mux s v (by omega), cartWrite_romBank5 hk hlo hhi]
  case bank2 =>
    intro hlo hhi
    rw [busWrite_mux s v (by omega), cartWrite_bank2 hk hlo hhi]
  case bankMode =>
    intro hlo hhi
    rw [busWrite_mux s v (by omega), cartWrite_bankMode hk hlo hhi]
  case lowRom =>
    intro ha hb
    rw [busRead_cart s hb (by omega), cartRead_mbc1_rom hk (by omega), mbc1RomIndex, if_pos ha, Option.getD_some]
  case highRom =>
    intro hlo hhi
    rw [busRead_cart s (.inr (by omega)) (by omega), cartRead_mbc1_rom hk hhi, mbc1RomIndex, if_neg (by omega),
      Option.getD_some]
  case closed =>
    intro hc
    have hclosed := mbc1RamOpen_eq_false_iff.mpr hc
    rw [busRead_cart s (.inr (by omega)) (.inr ⟨hlo, hhi⟩), cartRead_closedRam hk hclosed ⟨hlo, hhi⟩,
      busWrite_mux s v (.inr ⟨hlo, hhi⟩), cartWrite_closedRam hk hclosed ⟨hlo, hhi⟩]
    exact ⟨rfl, rfl⟩
  case opened =>
    intro he hs
    have hopen := mbc1RamOpen_eq_true_iff.mpr ⟨he, hs⟩
    rw [busRead_cart s (.inr (by omega)) (.inr ⟨hlo, hhi⟩), cartRead_ram hk hopen ⟨hlo, hhi⟩,
      busWrite_mux s v (.inr ⟨hlo, hhi⟩), cartWrite_ram hk hopen ⟨hlo, hhi⟩]
    exact ⟨rfl, rfl⟩
  case unclaimed =>
    intro hlo hram
    exact ⟨cartRead_mbc1_none hk hlo hram, cartWrite_mbc1_none hk hlo hram v⟩

end Sys2Proof.Machine
end

section
namespace Sys2Proof.Machine

/-! ## Decoding what the encoder writes (30_encoding.md R300 to R313) -/

/-- An operand word's bytes are those of the word, low byte first (R307). -/
theorem le16_append (n1 n2 : Byte) : le16 (n2 ++ n1) = [n1, n2] :=
  congrArg₂ (fun lo hi => [lo, hi]) (loByte_word n2 n1) (hiByte_word n2 n1)

/-! ### One instruction, by its length (R301) -/

section
variable {op : Byte} {i : Instr}

theorem decode_one (hlen : opLength op = 1) (h : decode3 op 0 0 = i) (rest : List Byte) :
    decode ([op] ++ rest) = .ok (i, rest) := by
  simp only [List.cons_append, List.nil_append, decode, hlen, h]

/-- An instruction with a word operand: the decoder puts the two bytes together again. -/
theorem decode_word {f : Word → Instr} (hlen : opLength op = 3) (h : ∀ n1 n2, decode3 op n1 n2 = f (n2 ++ n1))
    (n16 : Word) (rest : List Byte) : decode (op :: le16 n16 ++ rest) = .ok (f n16, rest) := by
  simp only [le16, List.cons_append, List.nil_append, decode, hlen, h]
  exact congrArg (fun w => Except.ok (f w, rest)) (word_hiByte_loByte n16)

/-- Behind 0xCB stands one code of the prefixed page (R309). -/
theorem decode_prefixed {b1 : Byte} (h : decodeCb b1 = i) (rest : List Byte) :
    decode ([0xCB, b1] ++ rest) = .ok (i, rest) := h ▸ rfl

end

/-! ### The eleven unassigned codes (R310) -/

theorem opLength_illegal : ∀ op ∈ illegalOpcodes, opLength op = 1 := by decide

theorem decode3_illegal {op : Byte} (h : op ∈ illegalOpcodes) (n1 n2 : Byte) : decode3 op n1 n2 = .illegal op := by
  have hbare : ∀ op ∈ illegalOpcodes, decode3 op 0 0 = .illegal op := by decide
  rw [decode3_operands, opLength_illegal op h]
  exact hbare op h

theorem wellFormed_illegal_iff {op : Byte} : (Instr.illegal op).wellFormed = true ↔ op ∈ illegalOpcodes :=
  List.contains_iff_mem

/-! ### Every instruction -/

/-- By instruction: a register, pair or condition is tried value by value, a byte operand is passed on as it stands, and
a word operand is put together from its two bytes. -/
theorem decode_encode {i : Instr} (h : i.wellFormed = true) (rest : List Byte) :
    decode (encode i ++ rest) = .ok (i, rest) := by
  cases i
  case illegal op =>
    have hop := wellFormed_illegal_iff.mp h
    exact decode_one (opLength_illegal op hop) (decode3_illegal hop 0 0) rest
  case prefixCB => nomatch h
  case rst y => exact decode_one (by revert y; decide) (by revert y; decide) rest
  case bitR b r | resR b r | setR b r => exact decode_prefixed (by cases r <;> revert b <;> decide) rest
  case bitInd b | resInd b | setInd b => exact decode_prefixed (by revert b; decide) rest
  case ldAA16 a16 | ldA16A a16 | ldA16Sp a16 | jp a16 | call a16 => exact decode_word rfl (fun _ _ => rfl) a16 rest
  case ldRpN16 rp n16 => cases rp <;> exact decode_word rfl (fun _ _ => rfl) n16 rest
  case jpCc cc a16 | callCc cc a16 => cases cc <;> exact decode_word rfl (fun _ _ => rfl) a16 rest
  case ldRR r r' => cases r <;> cases r' <;> rfl
  case ldRInd r | ldIndR r | incR r | decR r => cases r <;> rfl
  case ldRN r n => cases r <;> rfl
  case addR r | adcR r | subR r | sbcR r | andR r | xorR r | orR r | cpR r => cases r <;> rfl
  case rlcR r | rrcR r | rlR r | rrR r | slaR r | sraR r | swapR r | srlR r => cases r <;> rfl
  case addHlRp rp | incRp rp | decRp rp | push rp | pop rp => cases rp <;> rfl
  case retCc cc => cases cc <;> rfl
  case jrCc cc e => cases cc <;> rfl
  all_goals rfl

/-- Settles O1: the decoder undoes the encoder instruction by instruction. -/
theorem decodeOfEncode : Obligations.DecodeOfEncode := fun _ rest h => decode_encode h rest

/-! ## Encoding what the decoder answers -/

/-- The four quarters of the unprefixed page, each with its rows and columns (R302, R308): what holds of every cell
holds of every decoded opcode byte. -/
theorem decode3_induction {P : Byte → Instr → Prop} {n1 n2 : Byte}
    (x0 : ∀ y < 8, ∀ z < 8, P (opByte 0 y z) (decodeX0 y z n1 n2))
    (x1 : ∀ y < 8, ∀ z < 8, P (opByte 1 y z) (decodeX1 y z))
    (x2 : ∀ y < 8, ∀ z < 8, P (opByte 2 y z) (decodeAlu y (r8OfCode z)))
    (x3 : ∀ y < 8, ∀ z < 8, P (opByte 3 y z) (decodeX3 (opByte 3 y z) y z n1 n2)) (op : Byte) :
    P op (decode3 op n1 n2) := by
  have hx : fieldX op < 4 := by have := op.isLt; unfold fieldX; omega
  have hy : fieldY op < 8 := Nat.mod_lt _ (by decide)
  have hz : fieldZ op < 8 := Nat.mod_lt _ (by decide)
  have hop := opByte_fields op
  unfold decode3
  generalize fieldX op = x at hx hop
  generalize fieldY op = y at hy hop
  generalize fieldZ op = z at hz hop
  subst hop
  interval_cases x
  · exact x0 y hy z hz
  · exact x1 y hy z hz
  · exact x2 y hy z hz
  · exact x3 y hy z hz

/-- Column by column, `y` from 0 to 7: a word operand is written low byte first, every other cell by its definition. -/
theorem encode_decodeX0 (n1 n2 : Byte) : ∀ y < 8, ∀ z < 8,
    encode (decodeX0 y z n1 n2) = [opByte 0 y z, n1, n2].take (opLength (opByte 0 y z)) := by
  intro y hy z hz
  have hword (op : Byte) : op :: le16 (n2 ++ n1) = [op, n1, n2] := congrArg (op :: ·) (le16_append n1 n2)
  interval_cases z
  · interval_cases y
    exacts [rfl, hword _, rfl, rfl, rfl, rfl, rfl, rfl]
  · interval_cases y
    exacts [hword _, rfl, hword _, rfl, hword _, rfl, hword _, rfl]
  all_goals interval_cases y <;> rfl

theorem encode_decodeX1 : ∀ y < 8, ∀ z < 8, encode (decodeX1 y z) = [opByte 1 y z] := by decide

theorem encode_decodeAlu : ∀ y < 8, ∀ z < 8, encode (decodeAlu y (r8OfCode z)) = [opByte 2 y z] := by decide

theorem encode_decodeCb (b1 : Byte) : encode (decodeCb b1) = [0xCB, b1] := by revert b1; decide

/-- Column by column as for x = 0, the cell of 0xCB by the prefixed page. -/
theorem encode_decodeX3 (n1 n2 : Byte) : ∀ y < 8, ∀ z < 8,
    encode (decodeX3 (opByte 3 y z) y z n1 n2) = [opByte 3 y z, n1, n2].take (opLength (opByte 3 y z)) := by
  intro y hy z hz
  have hword (op : Byte) : op :: le16 (n2 ++ n1) = [op, n1, n2] := congrArg (op :: ·) (le16_append n1 n2)
  interval_cases z
  · interval_cases y <;> rfl
  · interval_cases y <;> rfl
  · interval_cases y
    exacts [hword _, hword _, hword _, hword _, rfl, hword _, rfl, hword _]
  · interval_cases y
    exacts [hword _, encode_decodeCb n1, rfl, rfl, rfl, rfl, rfl, rfl]
  · interval_cases y
    exacts [hword _, hword _, hword _, hword _, rfl, rfl, rfl, rfl]
  · interval_cases y
    exacts [rfl, hword _, rfl, rfl, rfl, rfl, rfl, rfl]
  all_goals interval_cases y <;> rfl

/-- The rows x = 1 and x = 2 hold one-byte instructions only (R301). -/
theorem opLength_x1_x2 : ∀ y < 8, ∀ z < 8, opLength (opByte 1 y z) = 1 ∧ opLength (opByte 2 y z) = 1 := by decide

/-- Settles O2: quarter by quarter of the unprefixed page, the two in the middle without operand bytes. -/
theorem encodeOfDecode : Obligations.EncodeOfDecode := by
  intro op n1 n2
  refine decode3_induction (P := fun op i => encode i = [op, n1, n2].take (opLength op)) (encode_decodeX0 n1 n2)
    (fun y hy z hz => ?_) (fun y hy z hz => ?_) (encode_decodeX3 n1 n2) op
  · rw [encode_decodeX1 y hy z hz, (opLength_x1_x2 y hy z hz).1]; rfl
  · rw [encode_decodeAlu y hy z hz, (opLength_x1_x2 y hy z hz).2]; rfl

/-! ## What the decoder can answer (30_encoding.md R310, R313) -/

theorem wellFormed_decodeCb (b1 : Byte) : (decodeCb b1).wellFormed = true := by revert b1; decide

theorem wellFormed_decodeX0 (n1 n2 : Byte) : ∀ y < 8, ∀ z < 8, (decodeX0 y z n1 n2).wellFormed = true := by
  intro y hy z hz
  interval_cases z <;> interval_cases y <;> rfl

theorem wellFormed_decodeX1 : ∀ y < 8, ∀ z < 8, (decodeX1 y z).wellFormed = true := by decide

theorem wellFormed_decodeAlu : ∀ y < 8, ∀ z < 8, (decodeAlu y (r8OfCode z)).wellFormed = true := by decide

/-- The eleven cells that answer ILLEGAL are those of R310, and the cell of 0xCB answers the prefixed page's code. -/
theorem wellFormed_decodeX3 (n1 n2 : Byte) : ∀ y < 8, ∀ z < 8,
    (decodeX3 (opByte 3 y z) y z n1 n2).wellFormed = true := by
  intro y hy z hz
  interval_cases z
  · interval_cases y <;> rfl
  · interval_cases y <;> rfl
  · interval_cases y <;> rfl
  · interval_cases y
    exacts [rfl, wellFormed_decodeCb n1, rfl, rfl, rfl, rfl, rfl, rfl]
  all_goals interval_cases y <;> rfl

theorem wellFormed_decode3 (op n1 n2 : Byte) : (decode3 op n1 n2).wellFormed = true :=
  decode3_induction (P := fun _ i => i.wellFormed = true) (wellFormed_decodeX0 n1 n2) wellFormed_decodeX1
    wellFormed_decodeAlu (wellFormed_decodeX3 n1 n2) op

/-- ILLEGAL keeps its opcode byte: its encoding is that byte, and begins with the byte decoded. -/
theorem eq_of_decode3_illegal {op n1 n2 b : Byte} (h : decode3 op n1 n2 = .illegal b) : b = op := by
  have henc := encodeOfDecode op n1 n2
  rw [h] at henc
  rcases opLength_cases op with hl | hl | hl <;> rw [hl] at henc <;> exact (List.cons.inj henc).1

/-- Settles O3: ILLEGAL is well-formed only with a byte of R310, each of these decodes to it, and a prefixed code is
two bytes long where ILLEGAL is one. -/
theorem decodeIsTotal : Obligations.DecodeIsTotal := by
  intro op n1 n2
  have hwf := wellFormed_decode3 op n1 n2
  refine ⟨hwf, fun b => ⟨fun h => ?_, ?_⟩, fun b h => ?_⟩
  · obtain rfl := eq_of_decode3_illegal h
    exact ⟨rfl, wellFormed_illegal_iff.mp (h ▸ hwf)⟩
  · rintro ⟨rfl, hop⟩
    exact decode3_illegal hop n1 n2
  · have henc := encode_decodeCb n1
    rw [h] at henc
    exact nomatch (List.cons.inj henc).2

/-- Settles O4: each of these words is the encoding of its instruction. -/
theorem decodeOfWrittenWords : Obligations.DecodeOfWrittenWords :=
  ⟨decode_encode (i := .ldRR .a .b) rfl [], decode_encode (i := .ldRpN16 .bc 0x1234) rfl [],
    decode_encode (i := .halt) rfl [], decode_encode (i := .subInd) rfl [], decode_encode (i := .jrCc .nz 0x05) rfl [],
    decode_encode (i := .push .af) rfl [], decode_encode (i := .rst 7) rfl [],
    decode_encode (i := .callCc .c 0x0200) rfl [], decode_encode (i := .swapR .a) rfl [],
    decode_encode (i := .bitR 7 .h) rfl [], decode_encode (i := .setInd 0) rfl []⟩

end Sys2Proof.Machine
end

section
namespace Sys2Proof.Machine

/-! ## Every instruction completes, and every cycle (60_exceptions.md R700, 70_reset_and_hazards.md R910) -/

/-- PREFIX has the meaning of the prefixed instruction behind it (45_system.md R607). -/
theorem exec_prefixCB (b1 : Byte) (s : State) : exec (.prefixCB b1) s = exec (decodeCb b1) s := by
  change execPrefixCB b1 s = _
  unfold execPrefixCB decodeCb
  generalize fieldX b1 = x
  generalize fieldY b1 = y
  rcases x with _ | _ | _ | x <;> rcases r8OfCode (fieldZ b1) with _ | r
  · rcases y with _ | _ | _ | _ | _ | _ | _ | y <;> rfl
  · rcases y with _ | _ | _ | _ | _ | _ | _ | y <;> rfl
  all_goals rfl

theorem decodeCb_ne_prefixCB (b1 b : Byte) : decodeCb b1 ≠ .prefixCB b :=
  fun h => nomatch h ▸ wellFormed_decodeCb b1

/-- Each meaning but PREFIX's is a next state by its definition, and PREFIX has one of those. -/
theorem exec_answers (i : Instr) (s : State) : ∃ t, exec i s = .next t := by
  have direct (i : Instr) (hi : ∀ b, i ≠ .prefixCB b) : ∃ t, exec i s = .next t := by
    cases i
    case prefixCB b => exact absurd rfl (hi b)
    all_goals exact ⟨_, rfl⟩
  by_cases hi : ∃ b1, i = .prefixCB b1
  · obtain ⟨b1, rfl⟩ := hi
    rw [exec_prefixCB]
    exact direct _ (decodeCb_ne_prefixCB b1)
  · exact direct i fun b1 h => hi ⟨b1, h⟩

theorem step_answers {s : State} (hf : s.fault = none) : ∃ t, step s = .next t := by
  cases hb : atBoundary (wake (devicesStep s)) with
  | false => exact ⟨_, step_idle hf rfl hb⟩
  | true =>
    cases hi : serviceDue (wake (devicesStep s)) with
    | true => exact ⟨_, step_service hf rfl hb hi⟩
    | false =>
      obtain ⟨u, hu⟩ := exec_answers (fetchInstr (wake (devicesStep s)))
        { wake (devicesStep s) with pc := fetchBase (wake (devicesStep s)) }
      exact ⟨_, by rw [step_execute hf rfl hb hi, hu]; rfl⟩

/-- Only the end of the cycle counts: no device, no instruction and no service moves the counter. -/
theorem step_next_cycles {s t : State} (h : step s = .next t) : t.cycles = s.cycles + 1 := by
  have hd : (wake (devicesStep s)).cycles = s.cycles := by rw [wake_cycles, devicesStep_cycles]
  obtain ⟨-, ⟨-, rfl⟩ | ⟨-, -, rfl⟩ | ⟨-, -, u, hu, rfl⟩⟩ := step_cases h
  · rw [endCycle_cycles, hd]
  · rw [endCycle_cycles, serviceBoundary_cycles, hd]
  · rw [endCycle_cycles, executed_cycles hu, hd]

theorem step_of_fault {s : State} {f : Fault} (h : s.fault = some f) : step s = .fault f := by
  rw [step, cycleStep, h]

/-- Settles O9: without a fault the step answers, and with one it answers that fault. -/
theorem stepAlwaysAnswers : Obligations.StepAlwaysAnswers := by
  intro s
  refine ⟨fun hf => ?_, fun r hr => ?_, fun i => exec_answers i s⟩
  · obtain ⟨t, ht⟩ := step_answers hf
    exact ⟨t, ht, step_next_cycles ht⟩
  · cases hf : s.fault with
    | none =>
      obtain ⟨t, ht⟩ := step_answers hf
      exact nomatch ht.symm.trans hr
    | some f => exact nomatch (step_of_fault hf).symm.trans hr

end Sys2Proof.Machine
end

section
namespace Sys2Proof.Machine

/-! ## What an instruction reads from, where it ends, and what it leaves (30_encoding.md R313, 10_state.md R105) -/

/-- The bytes of an encoding are read as its instruction, whatever follows them. -/
theorem readFrom_of_encode {i : Instr} {bytes : List Byte} (h : i.wellFormed = true) (hb : encode i = bytes) :
    ReadFrom bytes i := hb ▸ decode_encode h

/-- The end of an instruction that has moved neither pc nor the cycle counter (40_loads.md R400). -/
theorem endsAfter_advance {s u : State} (hpc : u.pc = s.pc) (hc : u.cycles = s.cycles) (len cost : Nat) :
    EndsAfter len cost s (advance (BitVec.ofNat 16 len) cost u) :=
  endsAfter_of_advance (by rw [advance_pc, hpc]) (by rw [advance_nextCycle, hc])

theorem SameRegs.trans {ex : List RegId} {s u t : State} (h : SameRegs ex s u) (h' : SameRegs ex u t) : SameRegs ex s t :=
  fun r hr => (h' r hr).trans (h r hr)

theorem SameControl.trans {s u t : State} (h : SameControl s u) (h' : SameControl u t) : SameControl s t :=
  ⟨h'.ime.trans h.ime, h'.imePending.trans h.imePending, h'.haltBugPending.trans h.haltBugPending,
    h'.fault.trans h.fault⟩

theorem sameControl_busWrite (a : Word) (v : Byte) (s : State) : SameControl s (busWrite a v s) :=
  ⟨busWrite_ime a v s, busWrite_imePending a v s, busWrite_haltBugPending a v s, busWrite_fault a v s⟩

theorem sameControl_advance (l : Word) (c : Nat) (s : State) : SameControl s (advance l c s) := ⟨rfl, rfl, rfl, rfl⟩

/-! ### Updates of the register file and of sp alone -/

section
variable {ex : List RegId} (s : State)

theorem onlyRegs_writeR8 {r : R8} (hr : regOfR8 r ∈ ex) (v : Byte) : OnlyRegs ex s.sp s (writeR8 r v s) :=
  ⟨fun _ hx => readReg_writeR8_other s (ne_of_mem_of_not_mem hr hx).symm v, rfl, ⟨rfl, rfl, rfl, rfl⟩,
    sameDevices_writeR8 r v s⟩

theorem onlyRegs_writeFlags (hf : .f ∈ ex) (f : Flags) : OnlyRegs ex s.sp s (writeFlags f s) :=
  ⟨fun _ hx => readReg_writeFlags_other s (ne_of_mem_of_not_mem hf hx).symm f, rfl, ⟨rfl, rfl, rfl, rfl⟩,
    sameDevices_writeFlags f s⟩

theorem onlyRegs_writeBc (hb : .b ∈ ex) (hc : .c ∈ ex) (v : Word) : OnlyRegs ex s.sp s (writeBc v s) :=
  ⟨fun _ hx => readReg_writeBc_other s (ne_of_mem_of_not_mem hb hx).symm (ne_of_mem_of_not_mem hc hx).symm v, rfl,
    ⟨rfl, rfl, rfl, rfl⟩, sameDevices_writeRp .bc v s⟩

theorem onlyRegs_writeDe (hd : .d ∈ ex) (he : .e ∈ ex) (v : Word) : OnlyRegs ex s.sp s (writeDe v s) :=
  ⟨fun _ hx => readReg_writeDe_other s (ne_of_mem_of_not_mem hd hx).symm (ne_of_mem_of_not_mem he hx).symm v, rfl,
    ⟨rfl, rfl, rfl, rfl⟩, sameDevices_writeRp .de v s⟩

theorem onlyRegs_writeHl (hh : .h ∈ ex) (hl : .l ∈ ex) (v : Word) : OnlyRegs ex s.sp s (writeHl v s) :=
  ⟨fun _ hx => readReg_writeHl_other s (ne_of_mem_of_not_mem hh hx).symm (ne_of_mem_of_not_mem hl hx).symm v, rfl,
    ⟨rfl, rfl, rfl, rfl⟩, sameDevices_writeRp .hl v s⟩

theorem onlyRegs_writeAf (ha : .a ∈ ex) (hf : .f ∈ ex) (v : Word) : OnlyRegs ex s.sp s (writeAf v s) :=
  ⟨fun _ hx => readReg_writeAf_other s (ne_of_mem_of_not_mem ha hx).symm (ne_of_mem_of_not_mem hf hx).symm v, rfl,
    ⟨rfl, rfl, rfl, rfl⟩, sameDevices_writeRp2 .af v s⟩

theorem onlyRegs_writeSp (v : Word) : OnlyRegs ex v s (writeRp .sp v s) :=
  ⟨fun r _ => readReg_writeRp_sp r s v, rfl, ⟨rfl, rfl, rfl, rfl⟩, sameDevices_writeRp .sp v s⟩

theorem onlyRegs_popSp : OnlyRegs ex (s.sp + 2) s (popSp s) :=
  ⟨fun r _ => readReg_popSp r s, rfl, ⟨rfl, rfl, rfl, rfl⟩, .of_fields rfl rfl rfl rfl rfl rfl rfl rfl rfl rfl rfl⟩

end

theorem OnlyRegs.trans {ex : List RegId} {p q : Word} {s u t : State} (h : OnlyRegs ex p s u) (h' : OnlyRegs ex q u t) :
    OnlyRegs ex q s t :=
  ⟨h.regs.trans h'.regs, h'.sp, h.control.trans h'.control, h.devices.trans h'.devices⟩

/-- The end of an instruction is none of its effects on the registers. -/
theorem OnlyRegs.advance {ex : List RegId} {p : Word} {s u : State} (h : OnlyRegs ex p s u) (l : Word) (c : Nat) :
    OnlyRegs ex p s (advance l c u) :=
  ⟨h.regs, h.sp, h.control.trans (sameControl_advance l c u), h.devices.trans (sameDevices_advance l c u)⟩

/-! ### Updates that store -/

/-- The devices of one bus write: every address it does not reach reads as before (20_memory.md R206, R243). -/
theorem StoredByte.of_sameDevices {a : Word} {v : Byte} {s t : State} (h : SameDevices (busWrite a v s) t) :
    StoredByte a v s t :=
  ⟨h, fun b hb => (h.reads b).trans (busRead_busWrite_of_not_reach v s hb)⟩

/-- The devices of two bus writes, each with its own reach. -/
theorem StoredTwo.of_sameDevices {a₁ a₂ : Word} {v₁ v₂ : Byte} {s t : State}
    (h : SameDevices (busWrite a₂ v₂ (busWrite a₁ v₁ s)) t) : StoredTwo a₁ v₁ a₂ v₂ s t :=
  ⟨h, fun b h₁ h₂ => by
    rw [h.reads, busRead_busWrite_of_not_reach _ _ h₂, busRead_busWrite_of_not_reach _ _ h₁]⟩

theorem onlyStore_busWrite {ex : List RegId} (a : Word) (v : Byte) (s : State) : OnlyStore ex a v s (busWrite a v s) :=
  ⟨fun r _ => readReg_busWrite r s a v, busWrite_sp a v s, sameControl_busWrite a v s, .of_sameDevices (.refl _)⟩

/-- A store, and then updates of the register file that leave sp. -/
theorem OnlyStore.onlyRegs {ex : List RegId} {a : Word} {v : Byte} {s u t : State} (h : OnlyStore ex a v s u)
    (h' : OnlyRegs ex u.sp u t) : OnlyStore ex a v s t :=
  ⟨h.regs.trans h'.regs, h'.sp.trans h.sp, h.control.trans h'.control,
    .of_sameDevices (h.stored.devices.trans h'.devices)⟩

theorem OnlyStore.advance {ex : List RegId} {a : Word} {v : Byte} {s u : State} (h : OnlyStore ex a v s u) (l : Word)
    (c : Nat) : OnlyStore ex a v s (advance l c u) :=
  ⟨h.regs, h.sp, h.control.trans (sameControl_advance l c u),
    .of_sameDevices (h.stored.devices.trans (sameDevices_advance l c u))⟩

/-- A push, and the end of its instruction (44_control.md R560). -/
theorem pushed_advance_push16 (v : Word) (s : State) (l : Word) (c : Nat) : Pushed v s (advance l c (push16 v s)) :=
  pushed_of_sameDevices (sameDevices_advance l c _) (push16_regs v s) (push16_sp v s)
    ⟨push16_ime v s, push16_imePending v s, push16_haltBugPending v s, push16_fault v s⟩

end Sys2Proof.Machine
end

section
namespace Sys2Proof.Machine

/-! ## Loads and stores of a byte (40_loads.md R401 to R419) -/

/-- The address of LDH and of LD (C), as the sum R307 writes. -/
theorem ofNat_highPage (a8 : Byte) : BitVec.ofNat 16 (0xFF00 + a8.toNat) = highPage a8 :=
  BitVec.eq_of_toNat_eq (by rw [← toNat_highPage, BitVec.ofNat_toNat, BitVec.setWidth_eq])

theorem toNat_add_one (w : Word) : (w + 1).toNat = (w.toNat + 1) % 65536 := BitVec.toNat_add w 1

theorem toNat_sub_one (w : Word) : (w - 1).toNat = (w.toNat + 65535) % 65536 := by
  rw [BitVec.toNat_sub, Nat.add_comm]; rfl

/-- What every load of a register field does: the field takes the byte, and no other cell changes. -/
theorem load_r8 (r : R8) (v : Byte) (s : State) (len cost : Nat) :
    let t := advance (BitVec.ofNat 16 len) cost (writeR8 r v s)
    readR8 r t = v ∧ OnlyRegs [regOfR8 r] s.sp s t ∧ EndsAfter len cost s t :=
  ⟨readR8_writeR8 r v s, (onlyRegs_writeR8 s (.head _) v).advance _ _, endsAfter_advance rfl rfl len cost⟩

/-- A load of A that steps HL to `w`. -/
theorem load_a_writeHl {w : Word} {n : Nat} (hw : w.toNat = n) (v : Byte) (s : State) (len cost : Nat) :
    let t := advance (BitVec.ofNat 16 len) cost (writeHl w (writeR8 .a v s))
    readReg .a t = v ∧ (readHl t).toNat = n ∧ OnlyRegs [.a, .h, .l] s.sp s t ∧ EndsAfter len cost s t := by
  refine ⟨rfl, ?_, ?_, endsAfter_advance rfl rfl len cost⟩
  · exact (congrArg BitVec.toNat (readHl_writeHl w _)).trans hw
  · have ha : OnlyRegs [.a, .h, .l] s.sp s (writeR8 .a v s) := onlyRegs_writeR8 s (by decide) v
    exact (ha.trans (onlyRegs_writeHl _ (by decide) (by decide) w)).advance _ _

/-- What every store of a byte does: one bus write, and no cell changes. -/
theorem store_byte (a : Word) (v : Byte) (s : State) (len cost : Nat) :
    let t := advance (BitVec.ofNat 16 len) cost (busWrite a v s)
    OnlyStore [] a v s t ∧ EndsAfter len cost s t :=
  ⟨(onlyStore_busWrite a v s).advance _ _, endsAfter_advance (busWrite_pc a v s) (busWrite_cycles a v s) len cost⟩

/-- A store of a byte that steps HL to `w`. -/
theorem store_byte_writeHl {w : Word} {n : Nat} (hw : w.toNat = n) (a : Word) (v : Byte) (s : State) (len cost : Nat) :
    let t := advance (BitVec.ofNat 16 len) cost (writeHl w (busWrite a v s))
    OnlyStore [.h, .l] a v s t ∧ (readHl t).toNat = n ∧ EndsAfter len cost s t := by
  refine ⟨?_, ?_, endsAfter_advance (busWrite_pc a v s) (busWrite_cycles a v s) len cost⟩
  · exact ((onlyStore_busWrite a v s).onlyRegs (onlyRegs_writeHl _ (by decide) (by decide) w)).advance _ _
  · exact (congrArg BitVec.toNat (readHl_writeHl w _)).trans hw

/-- Settles O37: each form writes its source into the register field. -/
theorem registerLoads : Obligations.RegisterLoads := by
  intro s r r' n
  exact ⟨⟨readFrom_of_encode rfl rfl, _, rfl, load_r8 r (readR8 r' s) s 1 1⟩,
    ⟨readFrom_of_encode rfl rfl, _, rfl, load_r8 r n s 2 2⟩,
    ⟨readFrom_of_encode rfl rfl, _, rfl, load_r8 r (busRead (readHl s) s) s 1 2⟩⟩

/-- Settles O38: each form writes the byte at its address into A, and two of them step HL. -/
theorem accumulatorLoads : Obligations.AccumulatorLoads := by
  intro s a16 a8
  rw [ofNat_highPage, ofNat_highPage]
  exact ⟨⟨readFrom_of_encode rfl rfl, _, rfl, load_r8 .a (busRead (readBc s) s) s 1 2⟩,
    ⟨readFrom_of_encode rfl rfl, _, rfl, load_r8 .a (busRead (readDe s) s) s 1 2⟩,
    ⟨readFrom_of_encode rfl rfl, _, rfl, load_r8 .a (busRead a16 s) s 3 4⟩,
    ⟨readFrom_of_encode rfl rfl, _, rfl, load_a_writeHl (toNat_add_one (readHl s)) (busRead (readHl s) s) s 1 2⟩,
    ⟨readFrom_of_encode rfl rfl, _, rfl, load_a_writeHl (toNat_sub_one (readHl s)) (busRead (readHl s) s) s 1 2⟩,
    ⟨readFrom_of_encode rfl rfl, _, rfl, load_r8 .a (busRead (highPage a8) s) s 2 3⟩,
    ⟨readFrom_of_encode rfl rfl, _, rfl, load_r8 .a (busRead (highPage (readReg .c s)) s) s 1 2⟩⟩

/-- Settles O39: each form is one bus write at its address, and two of them step HL. -/
theorem byteStores : Obligations.ByteStores := by
  intro s r n a16 a8
  rw [ofNat_highPage, ofNat_highPage]
  exact ⟨⟨readFrom_of_encode rfl rfl, _, rfl, store_byte (readHl s) (readR8 r s) s 1 2⟩,
    ⟨readFrom_of_encode rfl rfl, _, rfl, store_byte (readHl s) n s 2 3⟩,
    ⟨readFrom_of_encode rfl rfl, _, rfl, store_byte (readBc s) (readReg .a s) s 1 2⟩,
    ⟨readFrom_of_encode rfl rfl, _, rfl, store_byte (readDe s) (readReg .a s) s 1 2⟩,
    ⟨readFrom_of_encode rfl rfl, _, rfl, store_byte a16 (readReg .a s) s 3 4⟩,
    ⟨readFrom_of_encode rfl rfl, _, rfl, store_byte_writeHl (toNat_add_one (readHl s)) (readHl s) (readReg .a s) s 1 2⟩,
    ⟨readFrom_of_encode rfl rfl, _, rfl, store_byte_writeHl (toNat_sub_one (readHl s)) (readHl s) (readReg .a s) s 1 2⟩,
    ⟨readFrom_of_encode rfl rfl, _, rfl, store_byte (highPage a8) (readReg .a s) s 2 3⟩,
    ⟨readFrom_of_encode rfl rfl, _, rfl, store_byte (highPage (readReg .c s)) (readReg .a s) s 1 2⟩⟩

/-! ## Words and the stack (40_loads.md R420 to R431) -/

/-- The sum of a word and a sign-extended byte, over the integers (R423). -/
theorem toNat_add16L_sext16 (a : Word) (e : Byte) :
    ((add16L a (sext16 e)).1.toNat : Int) = ((a.toNat : Int) + e.toInt) % 65536 := by
  obtain ⟨hsum, -, -⟩ := add16L_spec a (sext16 e)
  obtain ⟨hint, -⟩ := toNat_sext16 e
  omega

/-- The flags of that sum, from the unsigned sum of the low bytes (R423). -/
theorem spOffsetFlags_add16L_sext16 (a : Word) (e : Byte) :
    spOffsetFlags (add16L a (sext16 e)).2 =
      { z := false, n := false, h := decide (16 ≤ a.toNat % 16 + e.toNat % 16),
        c := decide (256 ≤ a.toNat % 256 + e.toNat) } := by
  obtain ⟨-, hhalf, hcarry⟩ := add16L_spec a (sext16 e)
  obtain ⟨-, hlow⟩ := toNat_sext16 e
  have hnibble : (sext16 e).toNat % 16 = e.toNat % 16 := by omega
  rw [spOffsetFlags, hhalf, hcarry, hlow, hnibble]

/-- The low nibble of F reads 0 (10_state.md R104). -/
theorem readReg_f_low_nibble (s : State) : (readReg .f s).toNat % 16 = 0 := by
  have hf : (readReg .f s).toNat = _ := toNat_flagsByte s.regs.f
  omega

theorem toNat_and_highNibble (v : Byte) : (v &&& 0xF0).toNat = v.toNat / 16 * 16 := by revert v; decide

/-- Settles O40: pair by pair for LD rr,n16; the other three are one update each. -/
theorem wordLoadsAndStoreOfSp : Obligations.WordLoadsAndStoreOfSp := by
  intro s rp n16 a16 e
  refine ⟨⟨readFrom_of_encode rfl rfl, _, rfl, ?immediate, ?pair, ?ends⟩,
    ⟨readFrom_of_encode rfl rfl, _, rfl, (onlyRegs_writeSp s (readHl s)).advance _ _, endsAfter_advance rfl rfl 1 2⟩,
    ⟨readFrom_of_encode rfl rfl, _, rfl, ?sum, ?flags, ?hlAndFlags, endsAfter_advance rfl rfl 2 3⟩,
    ⟨readFrom_of_encode rfl rfl, _, rfl, ?stored, ?regs, ?sp, ?control, ?endsStore⟩⟩
  case immediate => rw [readRp_advance, readRp_writeRp]
  case pair =>
    refine OnlyRegs.advance ?_ _ _
    cases rp
    case bc => exact onlyRegs_writeBc s (by decide) (by decide) n16
    case de => exact onlyRegs_writeDe s (by decide) (by decide) n16
    case hl => exact onlyRegs_writeHl s (by decide) (by decide) n16
    case sp => exact onlyRegs_writeSp s n16
  case ends => cases rp <;> exact endsAfter_advance rfl rfl 3 3
  case sum =>
    rw [← toNat_add16L_sext16]
    exact congrArg (fun w : Word => (w.toNat : Int)) (readHl_writeHl _ s)
  case flags => exact spOffsetFlags_add16L_sext16 s.sp e
  case hlAndFlags =>
    have hhl : OnlyRegs [.h, .l, .f] s.sp s (writeHl (add16L s.sp (sext16 e)).1 s) :=
      onlyRegs_writeHl s (by decide) (by decide) _
    exact (hhl.trans (onlyRegs_writeFlags _ (by decide) _)).advance _ _
  case stored => exact .of_sameDevices (sameDevices_advance _ _ _)
  case regs =>
    intro r _
    rw [readReg_advance, busWrite16_eq, readReg_busWrite, readReg_busWrite]
  case sp => rw [advance_sp, busWrite16_eq, busWrite_sp, busWrite_sp]
  case control =>
    exact ((sameControl_busWrite _ _ s).trans (sameControl_busWrite _ _ _)).trans (sameControl_advance _ _ _)
  case endsStore => exact endsAfter_advance (by simp) (by simp) 3 5

/-- Settles O41: the push of the pair, whichever it is. -/
theorem pushStoresHighByteFirst : Obligations.PushStoresHighByteFirst := by
  intro s rp
  refine ⟨readFrom_of_encode rfl rfl, readReg_f_low_nibble s, _, rfl, ?_,
    endsAfter_advance (push16_pc _ s) (push16_cycles _ s) 1 4⟩
  cases rp <;> exact pushed_advance_push16 _ s _ _

/-- Settles O42: the two bytes of the word popped are the two cells of the pair, F's with its low nibble masked. -/
theorem popLoadsLowByteFirst : Obligations.PopLoadsLowByteFirst := by
  intro s rp
  have hsp {ex : List RegId} : OnlyRegs ex (s.sp + 2) s (popSp s) := onlyRegs_popSp s
  have hhi : hiByte (popValue s) = busRead (s.sp + 1) s := hiByte_word _ _
  have hlo : loByte (popValue s) = busRead s.sp s := loByte_word _ _
  refine ⟨readFrom_of_encode rfl rfl, _, rfl, ?pair, ?ends⟩
  case ends => cases rp <;> exact endsAfter_advance rfl rfl 1 3
  case pair =>
    cases rp
    case bc => exact ⟨hhi, hlo, (hsp.trans (onlyRegs_writeBc _ (by decide) (by decide) _)).advance _ _⟩
    case de => exact ⟨hhi, hlo, (hsp.trans (onlyRegs_writeDe _ (by decide) (by decide) _)).advance _ _⟩
    case hl => exact ⟨hhi, hlo, (hsp.trans (onlyRegs_writeHl _ (by decide) (by decide) _)).advance _ _⟩
    case af =>
      refine ⟨hhi, ?_, (hsp.trans (onlyRegs_writeAf _ (by decide) (by decide) _)).advance _ _⟩
      rw [← hlo, ← toNat_and_highNibble, ← flagsByte_flagsOfByte]
      rfl

end Sys2Proof.Machine
end

section
namespace Sys2Proof.Machine

/-! ## Decimal adjustment (41_alu8.md R483) -/

/-- What DAA computes, once it is known which of its two corrections R483 decides for. -/
theorem daa8_spec {a : Byte} {f : Flags} {low high : Bool}
    (hlow : (f.h || (!f.n && decide (9 < a.toNat % 16))) = low)
    (hhigh : (f.c || (!f.n && decide (0x99 < a.toNat))) = high) :
    let fix : Int := (if high then 0x60 else 0) + (if low then 0x06 else 0)
    ((daa8 a f).1.toNat : Int) = (if f.n then (a.toNat : Int) - fix else a.toNat + fix) % 256 ∧
    (daa8 a f).2 = { z := decide ((daa8 a f).1 = 0), n := f.n, h := false, c := high } := by
  refine ⟨?_, by subst hhigh; rfl⟩
  have hfix : ((0x60 * high.toNat + 0x06 * low.toNat : Nat) : Int) =
      (if high then 0x60 else 0) + (if low then 0x06 else 0) := by
    cases high <;> cases low <;> rfl
  simp only [daa8, gt_iff_lt, hlow, hhigh, ← hfix]
  split
  · rw [BitVec.toNat_ofInt]; omega
  · rw [BitVec.toNat_ofNat]; omega

/-- A decimal number below 100 as the byte of its two digits. -/
def packedDecimal (k : Nat) : Byte := BitVec.ofNat 8 (k / 10 * 16 + k % 10)

theorem toNat_packedDecimal {k : Nat} (h : k < 100) : (packedDecimal k).toNat = k / 10 * 16 + k % 10 := by
  rw [packedDecimal, BitVec.toNat_ofNat]; omega

/-- The packed sum of two decimal numbers passes 0x99 exactly when the numbers' sum passes 99. -/
theorem lt_packed_sum_iff (x y : Nat) :
    0x99 < x / 10 * 16 + x % 10 + (y / 10 * 16 + y % 10) ↔ 100 ≤ x + y := by
  rcases Nat.lt_or_ge (x % 10 + y % 10) 10 with h | h <;> omega

/-- After a sum the low digit is corrected when the digits' sum has two digits, the high one when the numbers' sum has
three. -/
theorem daa8_add8_packedDecimal {x y : Nat} (hx : x < 100) (hy : y < 100) :
    let sum := add8 (packedDecimal x) (packedDecimal y) false
    (daa8 sum.1 sum.2).1 = packedDecimal ((x + y) % 100) ∧ (daa8 sum.1 sum.2).2.c = decide (100 ≤ x + y) := by
  intro sum
  obtain ⟨hvalue, -, hsub, hhalf, hcarry⟩ :
    AddsTo (packedDecimal x) (packedDecimal y) false sum.1 sum.2 := add8_spec _ _ _
  simp only [toNat_packedDecimal hx, toNat_packedDecimal hy, Bool.toNat_false] at hvalue hhalf hcarry
  have hlow : (sum.2.h || (!sum.2.n && decide (9 < sum.1.toNat % 16))) = decide (10 ≤ x % 10 + y % 10) := by
    rw [Bool.eq_iff_iff]
    simp only [hsub, Bool.not_false, Bool.true_and, Bool.or_eq_true, decide_eq_true_eq, hhalf]
    omega
  have hsum := lt_packed_sum_iff x y
  have hhigh : (sum.2.c || (!sum.2.n && decide (0x99 < sum.1.toNat))) = decide (100 ≤ x + y) := by
    rw [Bool.eq_iff_iff]
    simp only [hsub, Bool.not_false, Bool.true_and, Bool.or_eq_true, decide_eq_true_eq, hcarry]
    omega
  obtain ⟨hdaa, hflags⟩ := daa8_spec hlow hhigh
  refine ⟨BitVec.eq_of_toNat_eq ?_, congrArg Flags.c hflags⟩
  rw [toNat_packedDecimal (Nat.mod_lt _ (by decide))]
  simp only [hsub, Bool.false_eq_true, if_false, decide_eq_true_eq] at hdaa
  split at hdaa <;> split at hdaa <;> omega

/-- After a difference each digit that borrowed is corrected, and the borrow of the numbers is the high digit's. -/
theorem daa8_sub8_packedDecimal {x y : Nat} (hx : x < 100) (hy : y < 100) :
    let diff := sub8 (packedDecimal x) (packedDecimal y) false
    (daa8 diff.1 diff.2).1 = packedDecimal ((100 + x - y) % 100) ∧ (daa8 diff.1 diff.2).2.c = decide (x < y) := by
  intro diff
  obtain ⟨hvalue, -, hsub, hhalf, hcarry⟩ :
    SubtractsTo (packedDecimal x) (packedDecimal y) false diff.1 diff.2 := sub8_spec _ _ _
  simp only [toNat_packedDecimal hx, toNat_packedDecimal hy, Bool.toNat_false] at hvalue hhalf hcarry
  have hlow : (diff.2.h || (!diff.2.n && decide (9 < diff.1.toNat % 16))) = decide (x % 10 < y % 10) := by
    rw [Bool.eq_iff_iff]
    simp only [hsub, Bool.not_true, Bool.false_and, Bool.or_false, decide_eq_true_eq, hhalf]
    omega
  have hhigh : (diff.2.c || (!diff.2.n && decide (0x99 < diff.1.toNat))) = decide (x < y) := by
    rw [Bool.eq_iff_iff]
    simp only [hsub, Bool.not_true, Bool.false_and, Bool.or_false, decide_eq_true_eq, hcarry]
    omega
  obtain ⟨hdaa, hflags⟩ := daa8_spec hlow hhigh
  refine ⟨BitVec.eq_of_toNat_eq ?_, congrArg Flags.c hflags⟩
  rw [toNat_packedDecimal (Nat.mod_lt _ (by decide))]
  simp only [hsub, if_true, decide_eq_true_eq] at hdaa
  split at hdaa <;> split at hdaa <;> omega

/-- Settles O49: the sum's half and the difference's. -/
theorem decimalAdditionAndSubtraction : Obligations.DecimalAdditionAndSubtraction := by
  intro x y hx hy
  exact ⟨(daa8_add8_packedDecimal hx hy).1, (daa8_add8_packedDecimal hx hy).2, daa8_sub8_packedDecimal hx hy⟩

end Sys2Proof.Machine
end

section
namespace Sys2Proof.Machine

/-! ## 8-bit arithmetic and logic (41_alu8.md R455 to R486) -/

/-- A write of one cell of the register file and of the flags. -/
theorem update_r8_flags (r : R8) (v : Byte) (f : Flags) (s : State) (len cost : Nat) :
    let t := advance (BitVec.ofNat 16 len) cost (writeFlags f (writeR8 r v s))
    t.regs.f = f ∧ OnlyRegs [regOfR8 r, .f] s.sp s t ∧ EndsAfter len cost s t := by
  have hr : OnlyRegs [regOfR8 r, .f] s.sp s (writeR8 r v s) := onlyRegs_writeR8 s (.head _) v
  exact ⟨rfl, (hr.trans (onlyRegs_writeFlags _ (.tail _ (.head _)) f)).advance _ _, endsAfter_advance rfl rfl len cost⟩

/-- A write of the flags alone. -/
theorem update_flags (f : Flags) (s : State) (len cost : Nat) :
    let t := advance (BitVec.ofNat 16 len) cost (writeFlags f s)
    t.regs.f = f ∧ OnlyRegs [.f] s.sp s t ∧ EndsAfter len cost s t :=
  ⟨rfl, (onlyRegs_writeFlags s (.head _) f).advance _ _, endsAfter_advance rfl rfl len cost⟩

/-- A write of one byte of memory and of the flags. -/
theorem update_byte_flags (a : Word) (v : Byte) (f : Flags) (s : State) (len cost : Nat) :
    let t := advance (BitVec.ofNat 16 len) cost (writeFlags f (busWrite a v s))
    t.regs.f = f ∧ OnlyStore [.f] a v s t ∧ EndsAfter len cost s t :=
  ⟨rfl, ((onlyStore_busWrite a v s).onlyRegs (onlyRegs_writeFlags _ (.head _) f)).advance _ _,
    endsAfter_advance (busWrite_pc a v s) (busWrite_cycles a v s) len cost⟩

/-! ### The eight-operation group -/

section
variable (s : State) (len cost : Nat)

/-- What every form of ADD and ADC does with its operand. -/
theorem add_to_a (m : Byte) (cin : Bool) :
    let t := advance (BitVec.ofNat 16 len) cost (aluToA (add8 s.regs.a m cin) s)
    AddsTo (readReg .a s) m cin (readReg .a t) t.regs.f ∧ OnlyRegs [.a, .f] s.sp s t ∧ EndsAfter len cost s t :=
  ⟨add8_spec s.regs.a m cin, (update_r8_flags .a _ _ s len cost).2⟩

/-- What every form of SUB and SBC does with its operand. -/
theorem sub_to_a (m : Byte) (bin : Bool) :
    let t := advance (BitVec.ofNat 16 len) cost (aluToA (sub8 s.regs.a m bin) s)
    SubtractsTo (readReg .a s) m bin (readReg .a t) t.regs.f ∧ OnlyRegs [.a, .f] s.sp s t ∧ EndsAfter len cost s t :=
  ⟨sub8_spec s.regs.a m bin, (update_r8_flags .a _ _ s len cost).2⟩

/-- What every form of AND, XOR and OR does with its bitwise result `v`: they differ in H alone (R452, R453). -/
theorem logic_to_a (v : Byte) (h : Bool) :
    let t := advance (BitVec.ofNat 16 len) cost (aluToA (v, { z := v == 0, n := false, h := h, c := false }) s)
    readReg .a t = v ∧ FlagsAre (decide (readReg .a t = 0)) false h false t ∧ OnlyRegs [.a, .f] s.sp s t ∧
    EndsAfter len cost s t :=
  ⟨rfl, rfl, (update_r8_flags .a _ _ s len cost).2⟩

/-- What every form of CP does with its operand. -/
theorem compare_with_a (m : Byte) :
    let t := advance (BitVec.ofNat 16 len) cost (writeFlags (sub8 s.regs.a m false).2 s)
    (∃ v, SubtractsTo (readReg .a s) m false v t.regs.f) ∧ OnlyRegs [.f] s.sp s t ∧ EndsAfter len cost s t :=
  ⟨⟨_, sub8_spec s.regs.a m false⟩, (update_flags _ s len cost).2⟩

end

/-- Settles O43: each form adds its operand to A. -/
theorem addWithAndWithoutCarry : Obligations.AddWithAndWithoutCarry := by
  intro s r n
  exact ⟨⟨readFrom_of_encode rfl rfl, _, rfl, add_to_a s 1 1 (readR8 r s) false⟩,
    ⟨readFrom_of_encode rfl rfl, _, rfl, add_to_a s 1 2 (busRead (readHl s) s) false⟩,
    ⟨readFrom_of_encode rfl rfl, _, rfl, add_to_a s 2 2 n false⟩,
    ⟨readFrom_of_encode rfl rfl, _, rfl, add_to_a s 1 1 (readR8 r s) s.regs.f.c⟩,
    ⟨readFrom_of_encode rfl rfl, _, rfl, add_to_a s 1 2 (busRead (readHl s) s) s.regs.f.c⟩,
    ⟨readFrom_of_encode rfl rfl, _, rfl, add_to_a s 2 2 n s.regs.f.c⟩⟩

/-- Settles O44: each form subtracts its operand from A. -/
theorem subtractWithAndWithoutBorrow : Obligations.SubtractWithAndWithoutBorrow := by
  intro s r n
  exact ⟨⟨readFrom_of_encode rfl rfl, _, rfl, sub_to_a s 1 1 (readR8 r s) false⟩,
    ⟨readFrom_of_encode rfl rfl, _, rfl, sub_to_a s 1 2 (busRead (readHl s) s) false⟩,
    ⟨readFrom_of_encode rfl rfl, _, rfl, sub_to_a s 2 2 n false⟩,
    ⟨readFrom_of_encode rfl rfl, _, rfl, sub_to_a s 1 1 (readR8 r s) s.regs.f.c⟩,
    ⟨readFrom_of_encode rfl rfl, _, rfl, sub_to_a s 1 2 (busRead (readHl s) s) s.regs.f.c⟩,
    ⟨readFrom_of_encode rfl rfl, _, rfl, sub_to_a s 2 2 n s.regs.f.c⟩⟩

/-- Settles O45: each form writes the bitwise result into A. -/
theorem logicOperations : Obligations.LogicOperations := by
  intro s r n
  exact ⟨⟨readFrom_of_encode rfl rfl, _, rfl, logic_to_a s 1 1 (readReg .a s &&& readR8 r s) true⟩,
    ⟨readFrom_of_encode rfl rfl, _, rfl, logic_to_a s 1 2 (readReg .a s &&& busRead (readHl s) s) true⟩,
    ⟨readFrom_of_encode rfl rfl, _, rfl, logic_to_a s 2 2 (readReg .a s &&& n) true⟩,
    ⟨readFrom_of_encode rfl rfl, _, rfl, logic_to_a s 1 1 (readReg .a s ^^^ readR8 r s) false⟩,
    ⟨readFrom_of_encode rfl rfl, _, rfl, logic_to_a s 1 2 (readReg .a s ^^^ busRead (readHl s) s) false⟩,
    ⟨readFrom_of_encode rfl rfl, _, rfl, logic_to_a s 2 2 (readReg .a s ^^^ n) false⟩,
    ⟨readFrom_of_encode rfl rfl, _, rfl, logic_to_a s 1 1 (readReg .a s ||| readR8 r s) false⟩,
    ⟨readFrom_of_encode rfl rfl, _, rfl, logic_to_a s 1 2 (readReg .a s ||| busRead (readHl s) s) false⟩,
    ⟨readFrom_of_encode rfl rfl, _, rfl, logic_to_a s 2 2 (readReg .a s ||| n) false⟩⟩

/-- Settles O46: each form writes the flags of the difference, and no result. -/
theorem compareWritesFlagsOnly : Obligations.CompareWritesFlagsOnly := by
  intro s r n
  exact ⟨⟨readFrom_of_encode rfl rfl, _, rfl, compare_with_a s 1 1 (readR8 r s)⟩,
    ⟨readFrom_of_encode rfl rfl, _, rfl, compare_with_a s 1 2 (busRead (readHl s) s)⟩,
    ⟨readFrom_of_encode rfl rfl, _, rfl, compare_with_a s 2 2 n⟩⟩

/-! ### Increment, decrement and the accumulator's adjustments -/

/-- The value of INC and its flags: H tells that the low nibble was 15 (R479, R480). -/
theorem add8_one (m : Byte) (old : Flags) :
    (add8 m 1 false).1.toNat = (m.toNat + 1) % 256 ∧ incDecFlags (add8 m 1 false).2 old =
      { z := decide ((add8 m 1 false).1 = 0), n := false, h := decide (m.toNat % 16 = 15), c := old.c } := by
  obtain ⟨hvalue, -, -, hhalf, -⟩ := add8_spec m 1 false
  have hone : (1 : Byte).toNat = 1 := rfl
  rw [hone, Bool.toNat_false] at hvalue hhalf
  have hnibble : (add8 m 1 false).2.h = decide (m.toNat % 16 = 15) := by
    rw [Bool.eq_iff_iff, hhalf, decide_eq_true_eq]; omega
  exact ⟨hvalue, by rw [← hnibble]; rfl⟩

/-- The value of DEC and its flags: H tells that the low nibble was 0 (R481, R482). -/
theorem sub8_one (m : Byte) (old : Flags) :
    (sub8 m 1 false).1.toNat = (m.toNat + 255) % 256 ∧ incDecFlags (sub8 m 1 false).2 old =
      { z := decide ((sub8 m 1 false).1 = 0), n := true, h := decide (m.toNat % 16 = 0), c := old.c } := by
  obtain ⟨hvalue, -, -, hhalf, -⟩ := sub8_spec m 1 false
  have hone : (1 : Byte).toNat = 1 := rfl
  rw [hone, Bool.toNat_false] at hvalue hhalf
  have hnibble : (sub8 m 1 false).2.h = decide (m.toNat % 16 = 0) := by
    rw [Bool.eq_iff_iff, hhalf, decide_eq_true_eq]; omega
  exact ⟨by omega, by rw [← hnibble]; rfl⟩

/-- Settles O47: INC is the sum with 1 and DEC the difference with 1, their C dropped. -/
theorem incrementAndDecrementBytes : Obligations.IncrementAndDecrementBytes := by
  intro s r
  refine ⟨⟨readFrom_of_encode rfl rfl, _, rfl, ?incR⟩,
    ⟨readFrom_of_encode rfl rfl, _, (add8 (readInd s) 1 false).1, rfl, ?incInd⟩,
    ⟨readFrom_of_encode rfl rfl, _, rfl, ?decR⟩,
    ⟨readFrom_of_encode rfl rfl, _, (sub8 (readInd s) 1 false).1, rfl, ?decInd⟩⟩
  case incR =>
    refine ⟨?_, (update_r8_flags r _ _ s 1 1).2⟩
    rw [readR8_advance, readR8_writeFlags, readR8_writeR8]
    exact add8_one (readR8 r s) s.regs.f
  case incInd => exact ⟨add8_one (readInd s) s.regs.f, (update_byte_flags (readHl s) _ _ s 1 3).2⟩
  case decR =>
    refine ⟨?_, (update_r8_flags r _ _ s 1 1).2⟩
    rw [readR8_advance, readR8_writeFlags, readR8_writeR8]
    exact sub8_one (readR8 r s) s.regs.f
  case decInd => exact ⟨sub8_one (readInd s) s.regs.f, (update_byte_flags (readHl s) _ _ s 1 3).2⟩

/-- Settles O48: DAA and CPL write A and the flags, SCF and CCF the flags alone. -/
theorem accumulatorAdjustments : Obligations.AccumulatorAdjustments := by
  intro s
  refine ⟨⟨readFrom_of_encode rfl rfl, _, rfl, ?daa⟩, ⟨readFrom_of_encode rfl rfl, _, rfl, ?cpl⟩,
    ⟨readFrom_of_encode rfl rfl, _, rfl, update_flags _ s 1 1⟩,
    ⟨readFrom_of_encode rfl rfl, _, rfl, update_flags _ s 1 1⟩⟩
  case daa => exact ⟨daa8_spec rfl rfl, (update_r8_flags .a _ _ s 1 1).2⟩
  case cpl => exact ⟨BitVec.toNat_not, update_r8_flags .a _ _ s 1 1⟩

end Sys2Proof.Machine
end

section
namespace Sys2Proof.Machine

/-! ## 16-bit arithmetic (42_alu16.md R503 to R506) -/

/-- The cells of the register file that a pair is made of; sp is none of them (R103). -/
def cellsOfRp : Rp → List RegId
  | .bc => [.b, .c]
  | .de => [.d, .e]
  | .hl => [.h, .l]
  | .sp => []

/-- The frame of a pair that takes a function of its own value. -/
theorem onlyRegs_writeRp_readRp (rp : Rp) (step : Word → Word) (s : State) :
    OnlyRegs (cellsOfRp rp) (if rp = .sp then step s.sp else s.sp) s (writeRp rp (step (readRp rp s)) s) := by
  cases rp
  case bc => exact onlyRegs_writeBc s (by decide) (by decide) _
  case de => exact onlyRegs_writeDe s (by decide) (by decide) _
  case hl => exact onlyRegs_writeHl s (by decide) (by decide) _
  case sp => exact onlyRegs_writeSp s _

/-- What INC rr and DEC rr do: the pair takes its own value stepped, and no flag is written. -/
theorem step_pair {rp : Rp} {s : State} {step : Word → Word} {n : Nat} (hstep : (step (readRp rp s)).toNat = n)
    (len cost : Nat) :
    let t := advance (BitVec.ofNat 16 len) cost (writeRp rp (step (readRp rp s)) s)
    (readRp rp t).toNat = n ∧ OnlyRegs (cellsOfRp rp) (if rp = .sp then step s.sp else s.sp) s t ∧
    EndsAfter len cost s t := by
  refine ⟨?_, (onlyRegs_writeRp_readRp rp step s).advance _ _,
    endsAfter_advance (writeRp_pc s rp _) (writeRp_cycles s rp _) len cost⟩
  rw [readRp_advance, readRp_writeRp, hstep]

/-- What ADD HL does with its operand. -/
theorem add_to_hl (w : Word) (s : State) (len cost : Nat) :
    let sum := add16H (readHl s) w
    let t := advance (BitVec.ofNat 16 len) cost
      (writeFlags { s.regs.f with n := false, h := sum.2.1, c := sum.2.2 } (writeHl sum.1 s))
    (readHl t).toNat = ((readHl s).toNat + w.toNat) % 65536 ∧
    FlagsAre s.regs.f.z false (decide (4096 ≤ (readHl s).toNat % 4096 + w.toNat % 4096))
      (decide (65536 ≤ (readHl s).toNat + w.toNat)) t ∧
    OnlyRegs [.h, .l, .f] s.sp s t ∧ EndsAfter len cost s t := by
  intro sum t
  obtain ⟨hsum, hhalf, hcarry⟩ := add16H_spec (readHl s) w
  have hhl : OnlyRegs [.h, .l, .f] s.sp s (writeHl sum.1 s) := onlyRegs_writeHl s (by decide) (by decide) _
  refine ⟨?_, ?_, (hhl.trans (onlyRegs_writeFlags _ (by decide) _)).advance _ _, endsAfter_advance rfl rfl len cost⟩
  · exact (congrArg BitVec.toNat (readHl_writeHl sum.1 s)).trans hsum
  · rw [← hhalf, ← hcarry]; rfl

/-- What ADD SP does with its signed byte. -/
theorem add_to_sp (e : Byte) (s : State) (len cost : Nat) :
    let sum := add16L s.sp (sext16 e)
    let t := advance (BitVec.ofNat 16 len) cost (writeFlags (spOffsetFlags sum.2) (writeRp .sp sum.1 s))
    (t.sp.toNat : Int) = ((s.sp.toNat : Int) + e.toInt) % 65536 ∧
    FlagsAre false false (decide (16 ≤ s.sp.toNat % 16 + e.toNat % 16)) (decide (256 ≤ s.sp.toNat % 256 + e.toNat)) t ∧
    OnlyRegs [.f] t.sp s t ∧ EndsAfter len cost s t := by
  intro sum t
  have hsp : OnlyRegs [.f] sum.1 s (writeRp .sp sum.1 s) := onlyRegs_writeSp s sum.1
  exact ⟨toNat_add16L_sext16 s.sp e, spOffsetFlags_add16L_sext16 s.sp e,
    (hsp.trans (onlyRegs_writeFlags _ (by decide) _)).advance _ _, endsAfter_advance rfl rfl len cost⟩

/-- Settles O50: ADD HL and ADD SP write a sum and its flags, INC rr and DEC rr the stepped pair alone. -/
theorem sixteenBitArithmetic : Obligations.SixteenBitArithmetic := by
  intro s rp e
  exact ⟨⟨readFrom_of_encode rfl rfl, _, rfl, add_to_hl (readRp rp s) s 1 2⟩,
    ⟨readFrom_of_encode rfl rfl, _, rfl, step_pair (step := (· + 1)) (toNat_add_one (readRp rp s)) 1 2⟩,
    ⟨readFrom_of_encode rfl rfl, _, rfl, step_pair (step := (· - 1)) (toNat_sub_one (readRp rp s)) 1 2⟩,
    ⟨readFrom_of_encode rfl rfl, _, rfl, add_to_sp e s 2 4⟩⟩

end Sys2Proof.Machine
end

section
namespace Sys2Proof.Machine

/-! ## Rotates, shifts, swap and single bits (43_rotate_shift_bit.md R522 to R547) -/

section
variable {src : Nat → Bool} {x : Byte × Bool} (s : State)

/-- What every accumulator rotate does with its result and the bit that left: Z does not follow the result (R522). -/
theorem rotate_a (hbits : BitsFrom src x.1) (len cost : Nat) :
    let t := advance (BitVec.ofNat 16 len) cost (rotateToA x s)
    BitsFrom src (readReg .a t) ∧ FlagsAre false false false x.2 t ∧ OnlyRegs [.a, .f] s.sp s t ∧
    EndsAfter len cost s t :=
  ⟨hbits, update_r8_flags .a x.1 (accRotateFlags x.2) s len cost⟩

/-- What every prefixed rotate, shift and swap of a register does with its result and the bit that left (R521). -/
theorem shift_r8 (r : R8) (hbits : BitsFrom src x.1) (len cost : Nat) :
    let t := advance (BitVec.ofNat 16 len) cost (shiftToR r x s)
    BitsFrom src (readR8 r t) ∧ FlagsAre (decide (readR8 r t = 0)) false false x.2 t ∧
    OnlyRegs [regOfR8 r, .f] s.sp s t ∧ EndsAfter len cost s t := by
  intro t
  have hread : readR8 r t = x.1 := by
    simp only [t, shiftToR, readR8_advance, readR8_writeFlags, readR8_writeR8]
  rw [hread]
  exact ⟨hbits, update_r8_flags r x.1 (shiftFlags x.1 x.2) s len cost⟩

/-- What every prefixed rotate, shift and swap of the byte at HL does with its result and the bit that left (R521). -/
theorem shift_ind (hbits : BitsFrom src x.1) (len cost : Nat) :
    let t := advance (BitVec.ofNat 16 len) cost (shiftToInd x s)
    BitsFrom src x.1 ∧ FlagsAre (decide (x.1 = 0)) false false x.2 t ∧ OnlyStore [.f] (readHl s) x.1 s t ∧
    EndsAfter len cost s t :=
  ⟨hbits, update_byte_flags (readHl s) x.1 (shiftFlags x.1 x.2) s len cost⟩

end

/-- What RES and SET do with the bit `b` of a register. -/
theorem setBit_r8 (b : BitVec 3) (bit : Bool) (r : R8) (s : State) (len cost : Nat) :
    let t := advance (BitVec.ofNat 16 len) cost (writeR8 r (setBit (readR8 r s) b.toNat bit) s)
    BitsFrom (fun i => if i = b.toNat then bit else (readR8 r s).getLsbD i) (readR8 r t) ∧
    OnlyRegs [regOfR8 r] s.sp s t ∧ EndsAfter len cost s t := by
  intro t
  obtain ⟨hread, hframe⟩ := load_r8 r (setBit (readR8 r s) b.toNat bit) s len cost
  exact ⟨hread ▸ setBit_bits (readR8 r s) b bit, hframe⟩

/-- What RES and SET do with the bit `b` of the byte at HL. -/
theorem setBit_ind (b : BitVec 3) (bit : Bool) (s : State) (len cost : Nat) :
    let w := setBit (readInd s) b.toNat bit
    let t := advance (BitVec.ofNat 16 len) cost (writeInd w s)
    BitsFrom (fun i => if i = b.toNat then bit else (busRead (readHl s) s).getLsbD i) w ∧
    OnlyStore [] (readHl s) w s t ∧ EndsAfter len cost s t :=
  ⟨setBit_bits (readInd s) b bit, store_byte (readHl s) _ s len cost⟩

/-- Settles O51: each form rotates A and writes the flags of an accumulator rotate. -/
theorem accumulatorRotates : Obligations.AccumulatorRotates := by
  intro s
  exact ⟨⟨readFrom_of_encode rfl rfl, _, rfl, rotate_a s (rlc8_bits (readReg .a s)) 1 1⟩,
    ⟨readFrom_of_encode rfl rfl, _, rfl, rotate_a s (rrc8_bits (readReg .a s)) 1 1⟩,
    ⟨readFrom_of_encode rfl rfl, _, rfl, rotate_a s (rl8_bits (readReg .a s) s.regs.f.c) 1 1⟩,
    ⟨readFrom_of_encode rfl rfl, _, rfl, rotate_a s (rr8_bits (readReg .a s) s.regs.f.c) 1 1⟩⟩

/-- Settles O52: each form rotates its operand and writes the flags of the result. -/
theorem prefixedRotates : Obligations.PrefixedRotates := by
  intro s r
  exact ⟨⟨readFrom_of_encode rfl rfl, _, rfl, shift_r8 s r (rlc8_bits (readR8 r s)) 2 2⟩,
    ⟨readFrom_of_encode rfl rfl, _, _, rfl, shift_ind s (rlc8_bits (readInd s)) 2 4⟩,
    ⟨readFrom_of_encode rfl rfl, _, rfl, shift_r8 s r (rrc8_bits (readR8 r s)) 2 2⟩,
    ⟨readFrom_of_encode rfl rfl, _, _, rfl, shift_ind s (rrc8_bits (readInd s)) 2 4⟩,
    ⟨readFrom_of_encode rfl rfl, _, rfl, shift_r8 s r (rl8_bits (readR8 r s) s.regs.f.c) 2 2⟩,
    ⟨readFrom_of_encode rfl rfl, _, _, rfl, shift_ind s (rl8_bits (readInd s) s.regs.f.c) 2 4⟩,
    ⟨readFrom_of_encode rfl rfl, _, rfl, shift_r8 s r (rr8_bits (readR8 r s) s.regs.f.c) 2 2⟩,
    ⟨readFrom_of_encode rfl rfl, _, _, rfl, shift_ind s (rr8_bits (readInd s) s.regs.f.c) 2 4⟩⟩

/-- Settles O53: each form shifts or swaps its operand and writes the flags of the result. -/
theorem prefixedShiftsAndSwap : Obligations.PrefixedShiftsAndSwap := by
  intro s r
  exact ⟨⟨readFrom_of_encode rfl rfl, _, rfl, shift_r8 s r (sla8_bits (readR8 r s)) 2 2⟩,
    ⟨readFrom_of_encode rfl rfl, _, _, rfl, shift_ind s (sla8_bits (readInd s)) 2 4⟩,
    ⟨readFrom_of_encode rfl rfl, _, rfl, shift_r8 s r (sra8_bits (readR8 r s)) 2 2⟩,
    ⟨readFrom_of_encode rfl rfl, _, _, rfl, shift_ind s (sra8_bits (readInd s)) 2 4⟩,
    ⟨readFrom_of_encode rfl rfl, _, rfl, shift_r8 s r (swap8_bits (readR8 r s)) 2 2⟩,
    ⟨readFrom_of_encode rfl rfl, _, _, rfl, shift_ind s (swap8_bits (readInd s)) 2 4⟩,
    ⟨readFrom_of_encode rfl rfl, _, rfl, shift_r8 s r (srl8_bits (readR8 r s)) 2 2⟩,
    ⟨readFrom_of_encode rfl rfl, _, _, rfl, shift_ind s (srl8_bits (readInd s)) 2 4⟩⟩

/-- Settles O54: BIT writes flags alone, RES and SET their operand with one bit replaced. -/
theorem singleBitOperations : Obligations.SingleBitOperations := by
  intro s b r
  exact ⟨⟨readFrom_of_encode rfl rfl, _, rfl, update_flags (bitFlags (readR8 r s) b s.regs.f) s 2 2⟩,
    ⟨readFrom_of_encode rfl rfl, _, rfl, update_flags (bitFlags (readInd s) b s.regs.f) s 2 3⟩,
    ⟨readFrom_of_encode rfl rfl, _, rfl, setBit_r8 b false r s 2 2⟩,
    ⟨readFrom_of_encode rfl rfl, _, _, rfl, setBit_ind b false s 2 4⟩,
    ⟨readFrom_of_encode rfl rfl, _, rfl, setBit_r8 b true r s 2 2⟩,
    ⟨readFrom_of_encode rfl rfl, _, _, rfl, setBit_ind b true s 2 4⟩⟩

end Sys2Proof.Machine
end

section
namespace Sys2Proof.Machine

/-! ## Control transfers (44_control.md R560 to R575) -/

/-- A condition, read off the flag it names (30_encoding.md R306). -/
theorem condHolds_iff : ∀ (cc : Cond) (s : State), condHolds cc s = true ↔
    (match cc with
      | .nz => s.regs.f.z = false | .z => s.regs.f.z = true | .nc => s.regs.f.c = false | .c => s.regs.f.c = true)
  | .nz, _ => by simp [condHolds]
  | .z, _ => Iff.rfl
  | .nc, _ => by simp [condHolds]
  | .c, _ => Iff.rfl

/-- What holds of the taken state and what of the untaken one, each under the condition of the transfer. -/
theorem ite_condHolds {cc : Cond} {s taken untaken : State} {holds : Prop} (hcc : condHolds cc s = true ↔ holds)
    {Taken Untaken : State → Prop} (ht : Taken taken) (hu : Untaken untaken) :
    let t := if condHolds cc s then taken else untaken
    (holds → Taken t) ∧ (¬ holds → Untaken t) :=
  ⟨fun h => (if_pos (hcc.mpr h)).symm ▸ ht, fun h => (if_neg fun hc => h (hcc.mp hc)).symm ▸ hu⟩

theorem onlyRegs_jumpTo (target : Word) (cost : Nat) (s : State) : OnlyRegs [] s.sp s (jumpTo target cost s) :=
  ⟨fun r _ => readReg_jumpTo r s target cost, rfl, ⟨rfl, rfl, rfl, rfl⟩, sameDevices_jumpTo target cost s⟩

/-- The target and the cost of a jump, when the update before it left the cycle counter. -/
theorem endsAt_jumpTo {s u : State} (hc : u.cycles = s.cycles) (target : Word) (cost : Nat) :
    EndsAt target cost s (jumpTo target cost u) :=
  ⟨rfl, by rw [jumpTo_nextCycle, hc]⟩

/-- What every unconditional jump does. -/
theorem jump_to_target (target : Word) (cost : Nat) (s : State) :
    let t := jumpTo target cost s
    OnlyRegs [] s.sp s t ∧ EndsAt target cost s t :=
  ⟨onlyRegs_jumpTo target cost s, endsAt_jumpTo rfl target cost⟩

/-- What every instruction does that goes on at the next one and touches nothing else. -/
theorem fall_through (s : State) (len cost : Nat) :
    let t := advance (BitVec.ofNat 16 len) cost s
    OnlyRegs [] s.sp s t ∧ EndsAfter len cost s t :=
  ⟨onlyRegs_jumpTo _ cost s, endsAfter_advance rfl rfl len cost⟩

/-- What every call does: the return address is pushed, and control goes to the target (R566, R575). -/
theorem call_target (ret target : Word) (cost : Nat) (s : State) :
    let t := jumpTo target cost (push16 ret s)
    Pushed ret s t ∧ EndsAt target cost s t :=
  ⟨pushed_of_sameDevices (sameDevices_jumpTo target cost _) (push16_regs ret s) (push16_sp ret s)
      ⟨push16_ime ret s, push16_imePending ret s, push16_haltBugPending ret s, push16_fault ret s⟩,
    endsAt_jumpTo (push16_cycles ret s) target cost⟩

/-- What RET and a taken RET cc do: the word popped is the target (R568). -/
theorem return_to_popValue (cost : Nat) (s : State) :
    let t := jumpTo (popValue s) cost (popSp s)
    OnlyRegs [] (s.sp + 2) s t ∧ EndsAt (word (busRead (s.sp + 1) s) (busRead s.sp s)) cost s t :=
  ⟨(onlyRegs_popSp s).trans (onlyRegs_jumpTo (popValue s) cost (popSp s)), endsAt_jumpTo rfl _ cost⟩

theorem sameDevices_returnFromIrq (s : State) : SameDevices s (returnFromIrq s) :=
  .of_fields rfl rfl rfl rfl rfl rfl rfl rfl rfl rfl rfl

theorem toNat_rstVector (y : BitVec 3) : (rstVector y).toNat = 8 * y.toNat := by
  rw [rstVector, BitVec.toNat_ofNat]; omega

/-- Where a relative jump ends, over the integers (R564). -/
theorem relTarget_of_endsAt {e : Byte} {cost : Nat} {s t : State} (h : EndsAt (relTarget e s) cost s t) :
    (t.pc.toNat : Int) = ((s.pc.toNat : Int) + 2 + e.toInt) % 65536 ∧ t.nextCycle = .cycle (s.cycles + cost) := by
  obtain ⟨hpc, hnext⟩ := h
  exact ⟨hpc ▸ toNat_relTarget e s, hnext⟩

/-- What every conditional jump does. -/
theorem jump_cc {cc : Cond} {s : State} {holds : Prop} (hcc : condHolds cc s = true ↔ holds) (target : Word)
    (cost len cost' : Nat) :
    let t := if condHolds cc s then jumpTo target cost s else advance (BitVec.ofNat 16 len) cost' s
    OnlyRegs [] s.sp s t ∧ (holds → EndsAt target cost s t) ∧ (¬ holds → EndsAfter len cost' s t) := by
  obtain ⟨hframe, hends⟩ := jump_to_target target cost s
  obtain ⟨hframe', hends'⟩ := fall_through s len cost'
  refine ⟨?_, ite_condHolds hcc hends hends'⟩
  split
  · exact hframe
  · exact hframe'

/-- Settles O56: a jump moves control alone, whichever way a condition decides. -/
theorem jumps : Obligations.Jumps := by
  intro s cc a16 e
  have hcc := condHolds_iff cc s
  refine ⟨⟨readFrom_of_encode rfl rfl, _, rfl, jump_to_target a16 4 s⟩,
    ⟨readFrom_of_encode rfl rfl, _, rfl, jump_cc hcc a16 4 3 3⟩,
    ⟨readFrom_of_encode rfl rfl, _, rfl, jump_to_target (readHl s) 1 s⟩,
    ⟨readFrom_of_encode rfl rfl, _, rfl, ?jr⟩,
    ⟨readFrom_of_encode rfl rfl, _, rfl, ?jrCc⟩⟩
  case jr =>
    obtain ⟨hframe, hends⟩ := jump_to_target (relTarget e s) 3 s
    exact ⟨hframe, relTarget_of_endsAt hends⟩
  case jrCc =>
    obtain ⟨hframe, htaken, huntaken⟩ := jump_cc hcc (relTarget e s) 3 2 2
    exact ⟨hframe, fun h => relTarget_of_endsAt (htaken h), huntaken⟩

/-- Settles O57: a call pushes and a return pops, and a conditional form that is not taken does neither. -/
theorem callsReturnsAndRestarts : Obligations.CallsReturnsAndRestarts := by
  intro s cc a16 y
  have hcc := condHolds_iff cc s
  refine ⟨⟨readFrom_of_encode rfl rfl, _, rfl, call_target (s.pc + 3) a16 6 s⟩,
    ⟨readFrom_of_encode rfl rfl, _, rfl, ?callCc⟩,
    ⟨readFrom_of_encode rfl rfl, _, rfl, return_to_popValue 4 s⟩,
    ⟨readFrom_of_encode rfl rfl, _, rfl, ?retCc⟩,
    ⟨readFrom_of_encode rfl rfl, _, rfl, ?reti⟩,
    ⟨readFrom_of_encode rfl rfl, _, rfl, ?rst⟩⟩
  case callCc =>
    exact ite_condHolds hcc (Taken := fun t => Pushed (s.pc + 3) s t ∧ EndsAt a16 6 s t)
      (Untaken := fun t => OnlyRegs [] s.sp s t ∧ EndsAfter 3 3 s t)
      (call_target (s.pc + 3) a16 6 s) (fall_through s 3 3)
  case retCc =>
    exact ite_condHolds hcc
      (Taken := fun t => OnlyRegs [] (s.sp + 2) s t ∧ EndsAt (popValue s) 5 s t)
      (Untaken := fun t => OnlyRegs [] s.sp s t ∧ EndsAfter 1 2 s t) (return_to_popValue 5 s) (fall_through s 1 2)
  case reti =>
    exact ⟨fun r _ => readReg_returnFromIrq r s, rfl,
      (sameDevices_returnFromIrq s).trans (sameDevices_jumpTo _ _ _), rfl, rfl, rfl, rfl, endsAt_jumpTo rfl _ 4⟩
  case rst =>
    obtain ⟨hpushed, hpc, hnext⟩ := call_target (s.pc + 1) (rstVector y) 4 s
    exact ⟨hpushed, by rw [hpc, toNat_rstVector], hnext⟩

end Sys2Proof.Machine
end

section
namespace Sys2Proof.Machine

/-! ## The system and CPU-control instructions (45_system.md R601 to R608) -/

/-- Settles O55: PREFIX answers as the instruction its second byte decodes to, and every instruction answers. -/
theorem prefixRunsPrefixedInstruction : Obligations.PrefixRunsPrefixedInstruction := by
  intro b1 s
  exact ⟨readFrom_of_encode (wellFormed_decodeCb b1) (encode_decodeCb b1), exec_prefixCB b1 s, exec_answers _ s⟩

/-- The update DI and EI are: the two interrupt-enable marks set, and then the end of a one-byte instruction. -/
theorem set_interrupt_enable (ime imePending : Bool) (s : State) :
    let t := advance 1 1 { s with ime := ime, imePending := imePending }
    SameRegs [] s t ∧ t.sp = s.sp ∧ SameDevices s t :=
  ⟨fun _ _ => rfl, rfl, .of_fields rfl rfl rfl rfl rfl rfl rfl rfl rfl rfl rfl⟩

/-- Settles O58: NOP falls through, and DI and EI besides set the two interrupt-enable marks. -/
theorem nopDiEi : Obligations.NopDiEi := by
  intro s
  refine ⟨⟨readFrom_of_encode rfl rfl, _, rfl, fall_through s 1 1⟩,
    ⟨readFrom_of_encode rfl rfl, _, rfl, ?di⟩, ⟨readFrom_of_encode rfl rfl, _, rfl, ?ei⟩⟩
  case di =>
    obtain ⟨hregs, hsp, hdev⟩ := set_interrupt_enable false false s
    exact ⟨hregs, hsp, hdev, rfl, rfl, rfl, rfl, endsAfter_advance rfl rfl 1 1⟩
  case ei =>
    obtain ⟨hregs, hsp, hdev⟩ := set_interrupt_enable (if s.params.eiDelay then s.ime else true)
      (if s.params.eiDelay then true else s.imePending) s
    refine ⟨hregs, hsp, hdev, fun h => ?_, fun h => ?_, rfl, rfl, endsAfter_advance rfl rfl 1 1⟩
    · simp [h]
    · simp [h]

/-- An enabled interrupt is pending, over the numbers of IE and IF (60_exceptions.md R722). -/
theorem pendingIrqs_ne_zero_iff (s : State) :
    pendingIrqs s ≠ 0 ↔ s.ie.toNat &&& s.iflag.toNat &&& 0x1F ≠ 0 := by
  have h : (pendingIrqs s).toNat = s.ie.toNat &&& s.iflag.toNat &&& 0x1F := by
    rw [pendingIrqs, BitVec.toNat_and, BitVec.toNat_setWidth, ← Nat.and_two_pow_sub_one_eq_mod, Nat.and_right_comm]
  rw [← h, ne_eq, ← BitVec.toNat_inj]
  rfl

theorem haltBugTaken_iff (s : State) :
    haltBugTaken s = true ↔
      s.params.haltBug = true ∧ s.ime = false ∧ s.ie.toNat &&& s.iflag.toNat &&& 0x1F ≠ 0 := by
  rw [← pendingIrqs_ne_zero_iff]
  simp only [haltBugTaken, Bool.and_eq_true, Bool.not_eq_true', bne_iff_ne]
  exact and_comm

/-- HALT by its two outcomes: the next fetch bugged, or fetching suspended (R602). -/
theorem exec_halt_eq (s : State) :
    exec .halt s = .next { advance 1 1 s with
      haltBugPending := haltBugTaken s || s.haltBugPending
      nextCycle := if haltBugTaken s then .cycle (s.cycles + 1) else .halted } := by
  change execHalt s = _
  unfold execHalt
  cases haltBugTaken s <;> rfl

/-- Settles O59: HALT moves pc by one and touches the sequencing state alone, in the way its condition decides. -/
theorem haltSuspendsFetching : Obligations.HaltSuspendsFetching := by
  intro s
  refine ⟨readFrom_of_encode rfl rfl, _, exec_halt_eq s, fun _ _ => rfl, rfl,
    .of_fields rfl rfl rfl rfl rfl rfl rfl rfl rfl rfl rfl, rfl, rfl, rfl, toNat_add_one s.pc, fun h => ?_, fun h => ?_⟩
  · have htaken : haltBugTaken s = true := (haltBugTaken_iff s).mpr h
    simp [htaken]
  · have huntaken : haltBugTaken s = false := Bool.eq_false_iff.mpr fun ht => h ((haltBugTaken_iff s).mp ht)
    simp [huntaken]

/-! ## The end of a boundary (45_system.md R606, 60_exceptions.md R702) -/

/-- An enable pending before the instruction and not cancelled by it takes effect. -/
theorem finishBoundary_promotes {d u : State} (hf : u.fault = none) (hd : d.imePending = true)
    (hu : u.imePending = true) : (finishBoundary d u).ime = true ∧ (finishBoundary d u).imePending = false := by
  simp [finishBoundary, hf, hd, hu]

/-- An enable that was not pending, that the instruction cancelled, or whose instruction faulted does not. -/
theorem finishBoundary_keeps_enable {d u : State} (h : u.fault ≠ none ∨ d.imePending = false ∨ u.imePending = false) :
    (finishBoundary d u).ime = u.ime ∧ (finishBoundary d u).imePending = u.imePending := by
  unfold finishBoundary
  split
  · exact ⟨rfl, rfl⟩
  · next hf =>
    have hpend : (d.imePending && u.imePending) = false := by
      rw [Bool.and_eq_false_iff]
      exact h.resolve_left fun hne => hf (Option.isSome_iff_ne_none.mpr hne)
    simp [hpend]

/-- With `EI_DELAY = 0` a step leaves no enable pending where none was (R606). -/
theorem step_keeps_imePending_false {s t : State} (h : step s = .next t) (hdelay : s.params.eiDelay = false)
    (hs : s.imePending = false) : t.imePending = false := by
  have hpend : (wake (devicesStep s)).imePending = false := by rw [wake_frame]; simpa using hs
  have hparam : (wake (devicesStep s)).params.eiDelay = false := by rw [wake_frame]; simpa using hdelay
  obtain ⟨-, ⟨-, rfl⟩ | ⟨-, -, rfl⟩ | ⟨-, -, u, hu, rfl⟩⟩ := step_cases h
  · exact hpend
  · simp [serviceBoundary]
  · rw [Bool.eq_false_iff]
    intro ht
    obtain hd | hd := (exec_sequenced _ _ u hu).eiDelay ((finishBoundary_pending _ u).1 ht)
    · exact Bool.false_ne_true (hpend.symm.trans hd)
    · exact Bool.false_ne_true (hparam.symm.trans hd)

/-- Settles O10: the end of the boundary decides, by the state before the instruction and the one it left. -/
theorem eiPromotion : Obligations.EiPromotion := by
  intro s t hf h d
  refine ⟨fun hb hi => ?_, step_keeps_imePending_false h⟩
  obtain ⟨u, hu, rfl⟩ := mapNext_eq_next ((step_execute hf (d := d) rfl hb hi).symm.trans h)
  exact ⟨u, hu, finishBoundary_promotes, finishBoundary_keeps_enable⟩

end Sys2Proof.Machine
end

section
namespace Sys2Proof.Machine

/-! ## The run loop (70_reset_and_hazards.md R910, R911) -/

theorem runUntil_past {t : Nat} {s : State} (h : t < s.cycles) :
    runUntil t s = .refused (.schedulingViolation t s.cycles) := if_pos h

theorem runUntil_of_fault {t : Nat} {s : State} {f : Fault} (hf : s.fault = some f) (h : s.cycles ≤ t) :
    runUntil t s = .faulted f s := by
  rw [runUntil, if_neg (by omega), hf]

theorem runUntil_cycles {s : State} (hf : s.fault = none) : runUntil s.cycles s = .ok s := by
  rw [runUntil, if_neg (by omega), hf, Nat.sub_self]
  rfl

/-- The first cycle of a run: what follows is the run from the state it leaves, which reports at once a fault it raised. -/
theorem runUntil_step {t : Nat} {s u : State} (h : step s = .next u) (hlt : s.cycles < t) :
    runUntil t s = runUntil t u := by
  obtain ⟨hf, -⟩ := step_cases h
  have hcycles : u.cycles = s.cycles + 1 := step_next_cycles h
  have hcycle : cycleStep s = .next u := h
  have hcount : t - s.cycles = (t - u.cycles) + 1 := by omega
  rw [runUntil, if_neg (by omega), hf, hcount, runUntil, if_neg (by omega)]
  simp only [runCycles, hcycle]

/-- A run to `t` ends at `t`, at a fault, or takes a step: what holds where it ends and is carried back by each of its
steps holds of its start. -/
theorem runUntil_induction {t : Nat} {P : ∀ s : State, s.cycles ≤ t → Prop}
    (reached : ∀ s (hs : s.cycles = t), s.fault = none → P s hs.le)
    (faulted : ∀ s f (hs : s.cycles ≤ t), s.fault = some f → P s hs)
    (stepped : ∀ s u (hlt : s.cycles < t) (hle : u.cycles ≤ t), step s = .next u → P u hle → P s hlt.le)
    (s : State) (hs : s.cycles ≤ t) : P s hs := by
  induction hn : t - s.cycles generalizing s with
  | zero =>
    cases hf : s.fault with
    | none => exact reached s (by omega) hf
    | some f => exact faulted s f hs hf
  | succ n ih =>
    cases hf : s.fault with
    | none =>
      obtain ⟨u, hu⟩ := step_answers hf
      have hcycles := step_next_cycles hu
      exact stepped s u (by omega) (by omega) hu (ih u (by omega) (by omega))
    | some f => exact faulted s f hs hf

/-- A run to a target that is not past reaches it exactly, or stops with the fault it found or raised. -/
theorem runUntil_answers {t : Nat} (s : State) (hs : s.cycles ≤ t) :
    (∃ u, runUntil t s = .ok u ∧ u.cycles = t ∧ u.fault = none) ∨
    (∃ f u, runUntil t s = .faulted f u ∧ u.fault = some f ∧ u.cycles ≤ t) := by
  induction s, hs using runUntil_induction with
  | reached s hs hf =>
    subst hs
    exact .inl ⟨s, runUntil_cycles hf, rfl, hf⟩
  | faulted s f hs hf => exact .inr ⟨f, s, runUntil_of_fault hf hs, hf, hs⟩
  | stepped s u hlt hle hu ih => rwa [runUntil_step hu hlt]

/-- A run that returned Ok had a target not past, and reached it. -/
theorem of_runUntil_ok {t : Nat} {s u : State} (h : runUntil t s = .ok u) :
    s.cycles ≤ t ∧ u.cycles = t ∧ u.fault = none := by
  by_cases hs : s.cycles ≤ t
  · obtain ⟨v, hv, hcycles, hf⟩ | ⟨f, v, hv, -⟩ := runUntil_answers s hs
    · obtain rfl := RunOutcome.ok.inj (hv.symm.trans h)
      exact ⟨hs, hcycles, hf⟩
    · exact nomatch hv.symm.trans h
  · exact nomatch (runUntil_past (not_le.mp hs)).symm.trans h

/-- Two runs compose. -/
theorem runUntil_runUntil {t t₂ : Nat} (ht : t ≤ t₂) {s s₁ : State} (h : runUntil t s = .ok s₁) :
    runUntil t₂ s₁ = runUntil t₂ s := by
  obtain ⟨hs, -⟩ := of_runUntil_ok h
  induction s, hs using runUntil_induction with
  | reached s hs hf =>
    subst hs
    rw [RunOutcome.ok.inj ((runUntil_cycles hf).symm.trans h)]
  | faulted s f hs hf => exact nomatch (runUntil_of_fault hf hs).symm.trans h
  | stepped s u hlt hle hu ih =>
    rw [runUntil_step hu hlt] at h
    rw [runUntil_step hu (by omega), ih h]

/-! ## Faults end every run (45_system.md R603, R608; 60_exceptions.md R702) -/

/-- A boundary whose instruction raises a fault sets the fault field, and pc is the opcode's again. -/
theorem step_raises {s d : State} (hf : s.fault = none) (hd : wake (devicesStep s) = d) (hb : atBoundary d = true)
    (hi : serviceDue d = false) {i : Instr} {f : Fault} (hfetch : fetchInstr d = i)
    (hexec : exec i { d with pc := fetchBase d } = .next { d with pc := fetchBase d, fault := some f }) :
    step s = .next (endCycle { d with fault := some f }) := by
  rw [step_execute hf hd hb hi, hfetch, hexec]
  rfl

/-- Settles O60: each of them is an instruction that raises a fault, and a machine that holds one steps no more. -/
theorem stopAndIllegalRaiseFaults : Obligations.StopAndIllegalRaiseFaults := by
  intro s n op
  refine ⟨⟨readFrom_of_encode rfl rfl, rfl⟩, fun hop => readFrom_of_encode (wellFormed_illegal_iff.mpr hop) rfl, rfl,
    ?boundary, fun f hf => ⟨step_of_fault hf, fun t => runUntil_of_fault hf⟩⟩
  case boundary =>
    intro d hf hb hi
    exact ⟨fun hfetch => step_raises hf rfl hb hi hfetch rfl, fun hfetch => step_raises hf rfl hb hi hfetch rfl⟩

/-! ## The final halt (70_reset_and_hazards.md R931) -/

theorem finalHalt_iff (s : State) : finalHalt s = true ↔ s.nextCycle = .halted ∧ s.ie.setWidth 5 = (0 : BitVec 5) := by
  simp [finalHalt]

/-- A step that is no fetch boundary keeps what finalHalt looks at, and a step at one that ends in a final halt is the
halt: so a machine first halts for good exactly where it first is finally halted. -/
theorem haltsForGood_eq_finalHalt {s t : State} (h : step s = .next t) (hs : finalHalt s = false) :
    haltsForGood s t = finalHalt t := by
  cases hb : atBoundary (wake (devicesStep s)) with
  | true => simp [haltsForGood, hb]
  | false =>
    have hnext := wake_nextCycle_of_not_boundary _ hb
    obtain ⟨hf, -⟩ := step_cases h
    obtain rfl := Host.Outcome.next.inj ((step_idle hf rfl hb).symm.trans h)
    have hie : (wake (devicesStep s)).ie = s.ie := by rw [wake_frame, devicesStep_ie]
    rw [haltsForGood, hb, Bool.false_and, ← hs]
    simp only [finalHalt, endCycle_nextCycle, endCycle_ie, hnext, hie, devicesStep_nextCycle]

theorem runToFinalHalt_succ {s t : State} (h : step s = .next t) (hs : finalHalt s = false) (n : Nat) :
    runToFinalHalt (n + 1) s = if finalHalt t then some t else runToFinalHalt n t := by
  have hcycle : cycleStep s = .next t := h
  simp only [runToFinalHalt, hcycle, haltsForGood_eq_finalHalt h hs]

theorem runToFinalHalt_of_fault {s : State} {f : Fault} (hf : s.fault = some f) (n : Nat) :
    runToFinalHalt n s = none := by
  cases n with
  | zero => rfl
  | succ n =>
    have hcycle : cycleStep s = .fault f := step_of_fault hf
    simp only [runToFinalHalt, hcycle]

theorem exec_fault_core {i : Instr} (hi : ∀ b, i ≠ .prefixCB b) {s u : State} (h : exec i s = .next u) :
    u.fault = s.fault ∨ ∃ f, u = raiseFault f s := by
  cases i
  case prefixCB b => exact absurd rfl (hi b)
  case stop | illegal => exact .inr ⟨_, (Host.Outcome.next.inj h).symm⟩
  case halt | jpCc | jrCc | callCc | retCc =>
    obtain rfl := Host.Outcome.next.inj h
    refine .inl ?_
    split <;> simp
  all_goals
    obtain rfl := Host.Outcome.next.inj h
    exact .inl (by simp [aluToA, rotateToA, shiftToR, shiftToInd])

/-- An instruction leaves the fault field, or raises a fault and does nothing else. -/
theorem exec_fault (i : Instr) {s u : State} (h : exec i s = .next u) :
    u.fault = s.fault ∨ ∃ f, u = raiseFault f s := by
  by_cases hi : ∃ b, i = .prefixCB b
  · obtain ⟨b, rfl⟩ := hi
    exact exec_fault_core (decodeCb_ne_prefixCB b) (exec_prefixCB b s ▸ h)
  · exact exec_fault_core (fun b hb => hi ⟨b, hb⟩) h

theorem not_finalHalt_of_cycle {s : State} {n : Nat} (h : s.nextCycle = .cycle n) : finalHalt s = false := by
  simp [finalHalt, h]

/-- The cycle that raises a fault is no final halt: the CPU was at a boundary, and the fault changed nothing else. -/
theorem not_finalHalt_of_fault {s t : State} (h : step s = .next t) {f : Fault} (ht : t.fault = some f) :
    finalHalt t = false := by
  have hd : (wake (devicesStep s)).fault = s.fault := by rw [wake_frame, devicesStep_fault]
  obtain ⟨hf, ⟨-, rfl⟩ | ⟨-, -, rfl⟩ | ⟨hb, -, u, hu, rfl⟩⟩ := step_cases h
  · exact nomatch (hd.trans hf).symm.trans ht
  · exact not_finalHalt_of_cycle (n := (wake (devicesStep s)).cycles + 5) rfl
  · rw [endCycle_fault, finishBoundary_fault] at ht
    obtain hsame | ⟨f', rfl⟩ := exec_fault _ hu
    · exact nomatch (hsame.trans (hd.trans hf)).symm.trans ht
    · refine not_finalHalt_of_cycle (n := (wake (devicesStep s)).cycles) ?_
      rw [endCycle_nextCycle, finishBoundary_nextCycle]
      exact of_decide_eq_true hb

/-- No state that a run from `s` reaches without a fault before cycle `c` is finally halted. -/
def NoFinalHaltBefore (c : Nat) (s : State) : Prop :=
  ∀ m v, m < c → runUntil m s = .ok v → finalHalt v = false

theorem noFinalHaltBefore_cycles {c : Nat} {s : State} (hc : c ≤ s.cycles) : NoFinalHaltBefore c s :=
  fun _ _ hm hv => absurd (of_runUntil_ok hv).1 (by omega)

/-- The states before cycle `c` are the first one and those of the run after its first cycle. -/
theorem noFinalHaltBefore_step {c : Nat} {s t : State} (h : step s = .next t) (hc : s.cycles < c) :
    NoFinalHaltBefore c s ↔ finalHalt s = false ∧ NoFinalHaltBefore c t := by
  obtain ⟨hf, -⟩ := step_cases h
  have hcycles := step_next_cycles h
  constructor
  · refine fun hno => ⟨hno s.cycles s hc (runUntil_cycles hf), fun m v hm hv => hno m v hm ?_⟩
    obtain ⟨hle, -⟩ := of_runUntil_ok hv
    rwa [runUntil_step h (by omega)]
  · rintro ⟨hs, hno⟩ m v hm hv
    obtain ⟨hle, -⟩ := of_runUntil_ok hv
    obtain rfl | hlt := hle.eq_or_lt
    · rwa [← RunOutcome.ok.inj ((runUntil_cycles hf).symm.trans hv)]
    · rw [runUntil_step h hlt] at hv
      exact hno m v hm hv

/-- `u` is the first finally halted state of the run from `s`, and is reached in 1 to `n` cycles. -/
structure FirstFinalHalt (n : Nat) (s u : State) : Prop where
  halted : finalHalt u = true
  later : s.cycles < u.cycles
  within : u.cycles ≤ s.cycles + n
  run : runUntil u.cycles s = .ok u
  first : NoFinalHaltBefore u.cycles s

section
variable {s t : State} (h : step s = .next t) (hs : finalHalt s = false)
include h hs

/-- Where the first cycle ends in a final halt, that is the first one. -/
theorem firstFinalHalt_of_finalHalt (ht : finalHalt t = true) (n : Nat) (u : State) :
    FirstFinalHalt (n + 1) s u ↔ t = u := by
  have hcycles := step_next_cycles h
  have hf : t.fault = none := by
    cases hf : t.fault with
    | none => rfl
    | some f => exact nomatch ht.symm.trans (not_finalHalt_of_fault h hf)
  constructor
  · rintro ⟨-, hlater, -, hrun, hfirst⟩
    rw [runUntil_step h hlater] at hrun
    obtain heq | hlt := (of_runUntil_ok hrun).1.eq_or_lt
    · exact RunOutcome.ok.inj ((runUntil_cycles hf).symm.trans (heq ▸ hrun))
    · have hno := ((noFinalHaltBefore_step h hlater).mp hfirst).2 t.cycles t hlt (runUntil_cycles hf)
      exact nomatch ht.symm.trans hno
  · rintro rfl
    have hlt : s.cycles < t.cycles := by omega
    exact ⟨ht, hlt, by omega, (runUntil_step h hlt).trans (runUntil_cycles hf),
      (noFinalHaltBefore_step h hlt).mpr ⟨hs, noFinalHaltBefore_cycles le_rfl⟩⟩

/-- Where it does not, the first final halt of the run is that of the rest of it. -/
theorem firstFinalHalt_step (ht : finalHalt t = false) (n : Nat) (u : State) :
    FirstFinalHalt (n + 1) s u ↔ FirstFinalHalt n t u := by
  have hcycles := step_next_cycles h
  constructor
  · rintro ⟨hu, hlater, hwithin, hrun, hfirst⟩
    rw [runUntil_step h hlater] at hrun
    refine ⟨hu, ?_, by omega, hrun, ((noFinalHaltBefore_step h hlater).mp hfirst).2⟩
    obtain ⟨hle, -, hf⟩ := of_runUntil_ok hrun
    refine hle.lt_of_ne fun heq => ?_
    cases hft : t.fault with
    | none =>
      obtain rfl := RunOutcome.ok.inj ((runUntil_cycles hft).symm.trans (heq ▸ hrun))
      exact nomatch hu.symm.trans ht
    | some f => exact nomatch (runUntil_of_fault hft hle).symm.trans hrun
  · rintro ⟨hu, hlater, hwithin, hrun, hfirst⟩
    have hlt : s.cycles < u.cycles := by omega
    exact ⟨hu, hlt, by omega, (runUntil_step h hlt).trans hrun, (noFinalHaltBefore_step h hlt).mpr ⟨hs, hfirst⟩⟩

end

/-- The end of a run at its final halt, looked for in `n` cycles, is the run's first finally halted state. -/
theorem runToFinalHalt_eq_some_iff {s : State} (hf : s.fault = none) (hs : finalHalt s = false) (n : Nat) (u : State) :
    runToFinalHalt n s = some u ↔ FirstFinalHalt n s u := by
  induction n generalizing s with
  | zero => exact ⟨nofun, fun ⟨_, hlater, hwithin, _, _⟩ => absurd hwithin (by omega)⟩
  | succ n ih =>
    obtain ⟨t, ht⟩ := step_answers hf
    rw [runToFinalHalt_succ ht hs]
    cases hhalt : finalHalt t with
    | true => rw [if_pos rfl, Option.some_inj, firstFinalHalt_of_finalHalt ht hs hhalt]
    | false =>
      rw [if_neg nofun, firstFinalHalt_step ht hs hhalt]
      cases hft : t.fault with
      | none => exact ih hft hhalt
      | some f =>
        rw [runToFinalHalt_of_fault hft]
        exact ⟨nofun, fun ⟨_, hlater, _, hrun, _⟩ => nomatch (runUntil_of_fault hft hlater.le).symm.trans hrun⟩

/-! ### After it: the devices step on, and nothing observable changes -/

theorem dmaStep_idle {s : State} (h : s.lcd.dmaIndex = 160) : dmaStep s = s := if_neg (by omega)

/-- The devices' steps leave video RAM, and OAM and the DMA unit while no copy runs. -/
theorem devicesStep_vram (s : State) : (devicesStep s).lcd.vram = s.lcd.vram := by
  have htimer : (timerStep s).lcd = s.lcd := by rw [timerStep_frame]
  rw [devicesStep, displayStep, (lcdStep_stores _).1, dmaStep_frame, htimer]

theorem devicesStep_of_dma_idle {s : State} (h : s.lcd.dmaIndex = 160) :
    (devicesStep s).lcd.oam = s.lcd.oam ∧ (devicesStep s).lcd.dmaIndex = 160 := by
  have htimer : (timerStep s).lcd = s.lcd := by rw [timerStep_frame]
  obtain ⟨-, hoam, hindex, -⟩ := lcdStep_stores (timerStep s)
  rw [devicesStep, displayStep, dmaStep_idle (htimer ▸ h), hoam, hindex, htimer]
  exact ⟨rfl, h⟩

/-- The whole step of a finally halted machine: nothing can wake it. -/
theorem step_of_finalHalt {s : State} (hf : s.fault = none) (hs : finalHalt s = true) :
    atBoundary (wake (devicesStep s)) = false ∧ step s = .next (endCycle (devicesStep s)) := by
  obtain ⟨hnext, hie⟩ := (finalHalt_iff s).mp hs
  have hirq : pendingIrqs (devicesStep s) = 0 := by
    rw [pendingIrqs, devicesStep_ie, hie]
    exact BitVec.zero_and
  have hwake := wake_of_no_irq hirq
  have hb : atBoundary (devicesStep s) = false := by
    simp [atBoundary, hnext]
  exact ⟨by rwa [hwake], step_idle hf hwake hb⟩

theorem finalHaltView_step (s : State) :
    { finalHaltView (endCycle (devicesStep s)) with oam := none } = { finalHaltView s with oam := none } := by
  simp [finalHaltView, devicesStep_vram]

theorem finalHaltView_step_of_dma_idle {s : State} (h : s.lcd.dmaIndex = 160) :
    finalHaltView (endCycle (devicesStep s)) = finalHaltView s := by
  obtain ⟨hoam, hindex⟩ := devicesStep_of_dma_idle h
  simp [finalHaltView, devicesStep_vram, hoam, hindex, h]

/-- Settles O35: the run loop's cases, two runs composed, the first final halt, and the cycle after one. -/
theorem runUntilReachesTarget : Obligations.RunUntilReachesTarget := by
  intro s t
  refine ⟨runUntil_past, fun ht _ => runUntil_answers s ht, fun s₁ t₂ h ht => runUntil_runUntil ht h,
    fun hf hs n u => ?_, fun hf hs => ?_⟩
  · rw [runToFinalHalt_eq_some_iff hf hs]
    exact ⟨fun ⟨hu, hlater, hwithin, hrun, hfirst⟩ => ⟨hu, hlater, hwithin, hrun, hfirst⟩,
      fun ⟨hu, hlater, hwithin, hrun, hfirst⟩ => ⟨hu, hlater, hwithin, hrun, hfirst⟩⟩
  · obtain ⟨hb, hstep⟩ := step_of_finalHalt hf hs
    refine ⟨hb, _, hstep, ?_, ?_, finalHaltView_step s, finalHaltView_step_of_dma_idle⟩
    · simpa [finalHalt] using hs
    · simpa using hf

end Sys2Proof.Machine
end

section
namespace Sys2Proof.Machine

/-! ## The service of an interrupt (60_exceptions.md R723, R730) -/

/-- The handler's address, as a number (R720). -/
theorem toNat_irqVector : ∀ i < 5, (irqVector i).toNat = 0x40 + 8 * i := by decide

/-- A service is due only where an enabled interrupt is pending. -/
theorem pendingIrqs_ne_zero_of_serviceDue {s : State} (h : serviceDue s = true) : pendingIrqs s ≠ 0 := by
  simp only [serviceDue, Bool.and_eq_true, bne_iff_ne] at h
  exact h.2

/-- Settles O7: the boundary services the lowest-numbered pending interrupt, from the state with its request
withdrawn. -/
theorem interruptService : Obligations.InterruptService := by
  intro s hf d hb hi
  obtain ⟨hlt, hpending, hlowest⟩ := lowestIrq_spec _ (pendingIrqs_ne_zero_of_serviceDue hi)
  refine ⟨lowestIrq (pendingIrqs d), serviceBase d, serviceBoundary d, hlt, hpending, hlowest, rfl, fun j hj => ?iflag,
    step_service hf rfl hb hi, pushed_serviceBoundary d, toNat_irqVector _ hlt, rfl⟩
  case iflag =>
    refine (setBit_getLsbD d.iflag _ j false hlt hj).trans ?_
    by_cases h : j = lowestIrq (pendingIrqs d) <;> simp [h]

end Sys2Proof.Machine
end

section
namespace Sys2Proof.Machine

/-! ## The timer (60_exceptions.md R760 to R765) -/

/-- Any change of the counter and the control moves the timer: a falling edge of its state ticks, nothing else does. -/
theorem timerMoves_timerUpdate (n : Word) (tac : BitVec 3) (s : State) : TimerMoves n tac s (timerUpdate n tac s) := by
  obtain ⟨htcount, htac, htma⟩ := timerUpdate_timer s n tac
  have hstate : timerState (timerUpdate n tac s).timer = timerState { s.timer with tcount := n, tac := tac } := by
    simp only [timerState, htcount, htac]
  refine ⟨timerUpdate_frame n tac s, htcount, htac, htma, fun hquiet => ?_, fun hold hnew htima => ?_,
    fun hold hnew htima => ?_⟩
  · rw [hstate] at hquiet
    rw [timerUpdate_eq, if_neg (by simpa using hquiet)]
    exact ⟨rfl, rfl⟩
  · rw [hstate] at hnew
    rw [timerUpdate_eq, if_pos (by simp [hold, hnew]), timerTick_eq]
    exact ⟨if_neg htima, if_neg htima⟩
  · rw [hstate] at hnew
    rw [timerUpdate_eq, if_pos (by simp [hold, hnew]), timerTick_eq]
    exact ⟨if_pos htima, if_pos htima⟩

/-- The timer state, with the critical bit of each selection written out (R761). -/
theorem timerState_eq (t : Timer) : timerState t = (t.tac.getLsbD 2 && t.tcount.getLsbD
    (if t.tac.toNat % 4 = 0 then 9 else if t.tac.toNat % 4 = 1 then 3 else if t.tac.toNat % 4 = 2 then 5 else 7)) := by
  have hbit : ∀ tac : BitVec 3, criticalBit tac =
      if tac.toNat % 4 = 0 then 9 else if tac.toNat % 4 = 1 then 3 else if tac.toNat % 4 = 2 then 5 else 7 := by decide
  rw [timerState, hbit]

/-- Settles O24: the step is an update with the counter 4 further. -/
theorem timerStepTicksOnFallingEdge : Obligations.TimerStepTicksOnFallingEdge := by
  intro s
  have hmoves : TimerMoves (s.timer.tcount + 4) s.timer.tac s (timerStep s) := timerMoves_timerUpdate _ _ s
  refine ⟨?_, hmoves, timerState_eq⟩
  rw [hmoves.tcount, BitVec.toNat_add]
  rfl

/-- TAC as read: its unstored bits are 1 (R760). -/
theorem toNat_tacByte : ∀ tac : BitVec 3, (0xF8 ||| tac.setWidth 8 : Byte).toNat = 0xF8 + tac.toNat := by decide

/-- Settles O25: DIV and TAC are updates, TIMA and TMA plain bytes. -/
theorem timerRegisterWrites : Obligations.TimerRegisterWrites := by
  intro s v
  have hwrite (a : Word) (h : 0xFF04 ≤ a.toNat ∧ a.toNat < 0xFF08) := busWrite_timerReg (a := a) s v h.1 h.2
  have hread (a : Word) (h : 0xFF04 ≤ a.toNat ∧ a.toNat < 0xFF08) := busRead_timerReg (a := a) s h.1 h.2
  refine ⟨?div, ?tac, hwrite 0xFF05 (by decide), hwrite 0xFF06 (by decide), ?readDiv, hread 0xFF05 (by decide),
    hread 0xFF06 (by decide), ?readTac, rfl, timerState_eq⟩
  case div =>
    rw [hwrite 0xFF04 (by decide)]
    exact timerMoves_timerUpdate 0 s.timer.tac s
  case tac =>
    rw [hwrite 0xFF07 (by decide)]
    exact timerMoves_timerUpdate s.timer.tcount (v.setWidth 3) s
  case readDiv =>
    rw [hread 0xFF04 (by decide)]
    exact toNat_hiByte s.timer.tcount
  case readTac =>
    rw [hread 0xFF07 (by decide)]
    exact toNat_tacByte s.timer.tac

end Sys2Proof.Machine
end

section
namespace Sys2Proof.Machine

/-! ## The display's requests of LCD_STAT, in one spelling (60_exceptions.md R721, R801, R806) -/

/-- A request that may be made adds `statIrq` to IF. -/
theorem ite_setBit_eq_statIrq (made : Bool) (iflag : BitVec 5) :
    (if made then setBit iflag 1 true else iflag) = iflag ||| statIrq made := by
  cases made
  · exact BitVec.or_zero.symm
  · rfl

/-- Two requests in a row are one, made when either is. -/
theorem or_statIrq_or_statIrq (iflag : BitVec 5) (a b : Bool) :
    iflag ||| statIrq a ||| statIrq b = iflag ||| statIrq (a || b) := by
  rw [BitVec.or_assoc]
  congr 1
  revert a b; decide

theorem checkLyc_eq_statIrq (s : State) :
    checkLyc s = { s with lcd := { s.lcd with lycEq := s.lcd.ly == s.lcd.lyc },
                          iflag := s.iflag ||| statIrq (s.lcd.ly == s.lcd.lyc && s.lcd.statEn.getLsbD 3) } := by
  rw [checkLyc_eq, ite_setBit_eq_statIrq]

/-- `setLY`, with the match as the statements spell it. -/
theorem setLy_eq_statIrq (v : Byte) (s : State) :
    setLy v s = { s with lcd := { s.lcd with ly := v, lycEq := s.lcd.lyc == v },
                         iflag := s.iflag ||| statIrq (s.lcd.lyc == v && s.lcd.statEn.getLsbD 3) } := by
  rw [setLy_eq, ite_setBit_eq_statIrq, BEq.comm]

theorem enterMode_eq_statIrq {m : LcdMode} (hm : m ≠ .transfer) (s : State) :
    enterMode m s = { s with lcd := { s.lcd with mode := m },
                             iflag := s.iflag ||| statIrq (s.lcd.statEn.getLsbD (modeCode m)) } := by
  rw [enterMode_eq, ← ite_setBit_eq_statIrq]
  simp only [ne_eq, hm, not_false_eq_true, true_and]

/-- A new line and the mode it begins in: one request, for the match or the mode entry. -/
theorem enterMode_setLy {m : LcdMode} (hm : m ≠ .transfer) (v : Byte) (s : State) :
    enterMode m (setLy v s) = { s with
      lcd := { s.lcd with ly := v, lycEq := s.lcd.lyc == v, mode := m }
      iflag := s.iflag ||| statIrq ((s.lcd.lyc == v && s.lcd.statEn.getLsbD 3) ||
        s.lcd.statEn.getLsbD (modeCode m)) } := by
  rw [enterMode_eq_statIrq hm, setLy_eq_statIrq, or_statIrq_or_statIrq]

/-! ## The state machine, event by event (60_exceptions.md R802, R804) -/

theorem lcdStart_eq (s : State) : lcdStart s = { s with
    lcd := { s.lcd with ly := 0, lycEq := s.lcd.lyc == 0, winLine := 0, mode := .oamScan,
                        lcdNext := .cycle (s.cycles + 20) }
    iflag := s.iflag ||| statIrq ((s.lcd.lyc == 0 && s.lcd.statEn.getLsbD 3) || s.lcd.statEn.getLsbD 2) } := by
  simp only [lcdStart, setLy_eq_statIrq, enterMode_eq_statIrq (m := .oamScan) nofun, or_statIrq_or_statIrq, setLcdNext,
    modeCode]

theorem lcdEndOamScan_eq (s : State) : lcdEndOamScan s = { s with
    lcd := { s.lcd with mode := .transfer, lcdNext := .cycle (s.cycles + 43), winLine := nextWinLine s.lcd s.lcd.ly,
                        frameBuild := s.lcd.frameBuild.setIfInBounds s.lcd.ly.toNat (renderLine s.lcd s.lcd.ly) } } := rfl

theorem lcdEndTransfer_eq (s : State) : lcdEndTransfer s = { s with
    lcd := { s.lcd with mode := .hblank, lcdNext := .cycle (s.cycles + 51) }
    iflag := s.iflag ||| statIrq (s.lcd.statEn.getLsbD 0) } := by
  simp only [lcdEndTransfer, enterMode_eq_statIrq (m := .hblank) nofun, setLcdNext, modeCode]

/-- The last visible line ends in V-blank, with its request and the frame exposed (R805). -/
theorem lcdEndHblank_eq_vblank {s : State} (h : s.lcd.ly = 143) : lcdEndHblank s = { s with
    lcd := { s.lcd with mode := .vblank, ly := 144, lycEq := s.lcd.lyc == 144, lcdNext := .cycle (s.cycles + 114),
                        frameOut := s.lcd.frameBuild }
    iflag := s.iflag ||| statIrq ((s.lcd.lyc == 144 && s.lcd.statEn.getLsbD 3) || s.lcd.statEn.getLsbD 1) ||| 1 } := by
  rw [lcdEndHblank, if_pos h, enterMode_setLy (m := .vblank) nofun]
  rfl

theorem lcdEndHblank_eq_oamScan {s : State} (h : s.lcd.ly ≠ 143) : lcdEndHblank s = { s with
    lcd := { s.lcd with mode := .oamScan, ly := s.lcd.ly + 1, lycEq := s.lcd.lyc == s.lcd.ly + 1,
                        lcdNext := .cycle (s.cycles + 20) }
    iflag := s.iflag ||| statIrq ((s.lcd.lyc == s.lcd.ly + 1 && s.lcd.statEn.getLsbD 3) || s.lcd.statEn.getLsbD 2) } := by
  rw [lcdEndHblank, if_neg h, enterMode_setLy (m := .oamScan) nofun]
  rfl

/-- The last V-blank line ends as a display start does. -/
theorem lcdEndVblankLine_eq_start {s : State} (h : s.lcd.ly = 153) : lcdEndVblankLine s = lcdStart s := if_pos h

theorem lcdEndVblankLine_eq_next {s : State} (h : s.lcd.ly ≠ 153) : lcdEndVblankLine s = { s with
    lcd := { s.lcd with ly := s.lcd.ly + 1, lycEq := s.lcd.lyc == s.lcd.ly + 1, lcdNext := .cycle (s.cycles + 114) }
    iflag := s.iflag ||| statIrq (s.lcd.lyc == s.lcd.ly + 1 && s.lcd.statEn.getLsbD 3) } := by
  rw [lcdEndVblankLine, if_neg h, setLy_eq_statIrq]
  rfl

/-! ## Which event a step is (60_exceptions.md R804) -/

theorem lcdStep_off {s : State} (off : lcdcBit s.lcd 7 = false) : lcdStep s = s := by
  simp only [lcdStep, off, Bool.false_eq_true, if_false]

section
variable {s : State} (on : lcdcBit s.lcd 7 = true)
include on

theorem lcdStep_halted (h : s.lcd.lcdNext = .halted) : lcdStep s = lcdStart s := by
  simp only [lcdStep, on, h, if_true]

theorem lcdStep_not_due {n : Nat} (h : s.lcd.lcdNext = .cycle n) (hn : n ≠ s.cycles) : lcdStep s = s := by
  simp only [lcdStep, on, h, if_true, if_neg hn.symm]

variable (due : s.lcd.lcdNext = .cycle s.cycles)
include due

theorem lcdStep_oamScan (h : s.lcd.mode = .oamScan) : lcdStep s = lcdEndOamScan s := by
  simp only [lcdStep, on, due, h, if_true]

theorem lcdStep_transfer (h : s.lcd.mode = .transfer) : lcdStep s = lcdEndTransfer s := by
  simp only [lcdStep, on, due, h, if_true]

theorem lcdStep_hblank (h : s.lcd.mode = .hblank) : lcdStep s = lcdEndHblank s := by
  simp only [lcdStep, on, due, h, if_true]

theorem lcdStep_vblank (h : s.lcd.mode = .vblank) : lcdStep s = lcdEndVblankLine s := by
  simp only [lcdStep, on, due, h, if_true]

end

/-- Settles O26: a due counter ends the mode it is in, by that mode's event. -/
theorem scanlineSchedule : Obligations.ScanlineSchedule := by
  intro s t l
  refine ⟨lcdStep_off, lcdStep_halted, fun _ on h => lcdStep_not_due on h, fun _ on due => ⟨lcdStep_frame s, ?oamScan,
    ?transfer, ?hblankLast, ?hblank, ?vblankLast, ?vblank⟩⟩
  case oamScan =>
    intro hm
    rw [show t = _ from (lcdStep_oamScan on due hm).trans (lcdEndOamScan_eq s)]
    exact ⟨rfl, rfl⟩
  case transfer =>
    intro hm
    rw [show t = _ from (lcdStep_transfer on due hm).trans (lcdEndTransfer_eq s)]
    exact ⟨rfl, rfl⟩
  case hblankLast =>
    intro hm hly
    rw [show t = _ from (lcdStep_hblank on due hm).trans (lcdEndHblank_eq_vblank hly)]
    exact ⟨rfl, rfl⟩
  case hblank =>
    intro hm hly
    rw [show t = _ from (lcdStep_hblank on due hm).trans (lcdEndHblank_eq_oamScan hly)]
    rw [BEq.comm (a := l.ly + 1)]
    exact ⟨rfl, rfl⟩
  case vblankLast =>
    intro hm hly
    rw [show t = _ from (lcdStep_vblank on due hm).trans ((lcdEndVblankLine_eq_start hly).trans (lcdStart_eq s))]
    exact ⟨rfl, rfl⟩
  case vblank =>
    intro hm hly
    rw [show t = _ from (lcdStep_vblank on due hm).trans (lcdEndVblankLine_eq_next hly)]
    rw [BEq.comm (a := l.ly + 1)]
    exact ⟨rfl, rfl⟩

/-! ## Writes and reads of the display's registers (60_exceptions.md R803, R807, R808, R813) -/

/-- Clearing bit 7 stops the display (R803). -/
theorem writeLcdc_stops {s : State} {v : Byte} (on : lcdcBit s.lcd 7 = true) (hv : v.getLsbD 7 = false) :
    writeLcdc v s = { s with
      lcd := { s.lcd with lcdc := v, ly := 0, lycEq := s.lcd.lyc == 0, mode := .hblank, lcdNext := .halted }
      iflag := s.iflag ||| statIrq (s.lcd.lyc == 0 && s.lcd.statEn.getLsbD 3) } := by
  rw [writeLcdc, if_pos (by rw [on, hv]; rfl), setLy_eq_statIrq]
  rfl

/-- Any other write of LCDC only stores (R803). -/
theorem writeLcdc_stores {s : State} {v : Byte} (h : lcdcBit s.lcd 7 = false ∨ v.getLsbD 7 = true) :
    writeLcdc v s = { s with lcd := { s.lcd with lcdc := v } } := by
  have hstop : (lcdcBit s.lcd 7 && !v.getLsbD 7) = false := by
    rcases h with h | h
    · rw [h, Bool.false_and]
    · rw [h, Bool.not_true, Bool.and_false]
  rw [writeLcdc, if_neg (by rw [hstop]; exact Bool.false_ne_true)]

/-- STAT as read, in full: nothing is lost in the byte (R808). -/
theorem toNat_statByte (l : Lcd) :
    (statByte l).toNat = 0x80 + l.statEn.toNat * 8 + l.lycEq.toNat * 4 + modeCode l.mode := by
  have hen := l.statEn.isLt
  have heq := Bool.toNat_lt l.lycEq
  have hmode : modeCode l.mode < 4 := by cases l.mode <;> decide
  simp only [statByte, BitVec.toNat_ofNat]
  omega

theorem busRead_stat (s : State) : busRead 0xFF41 s = statByte s.lcd := busRead_lcdReg s (by decide) (by decide)

/-- Settles O27: the start is the event of a halted counter, the stop a write of LCDC, and VRAM and OAM are windows. -/
theorem displayStartAndStop : Obligations.DisplayStartAndStop := by
  intro s v
  have hlcdc : busWrite 0xFF40 v s = writeLcdc v s := busWrite_lcdReg s v (by decide) (by decide)
  refine ⟨fun on h => ?start, fun on hv => ?stop, fun h => hlcdc.trans (writeLcdc_stores h), lcdStep_off, fun ok off => ?off,
    fun a h h' => ⟨busRead_vram s h h', busWrite_vram s v h h'⟩, fun a h h' => ⟨busRead_oam s h h', busWrite_oam s v h h'⟩⟩
  case start =>
    simp only [lcdStep_halted on h, lcdStart_eq, and_self]
  case stop =>
    simp only [hlcdc, writeLcdc_stops on hv, and_self]
  case off =>
    obtain ⟨-, hly, hmode⟩ := ok.off off
    refine ⟨?_, (busRead_lcdReg (a := 0xFF44) s (by decide) (by decide)).trans hly⟩
    rw [busRead_stat, toNat_statByte, hmode, modeCode]
    omega

/-- Settles O28: LYC re-evaluates the match, STAT keeps four bits, LY none, and the others are plain bytes. -/
theorem lycAndStatWrites : Obligations.LycAndStatWrites := by
  intro s v
  have hwrite (a : Word) (h : 0xFF40 ≤ a.toNat ∧ a.toNat < 0xFF4C) := busWrite_lcdReg (a := a) s v h.1 h.2
  have hread (a : Word) (h : 0xFF40 ≤ a.toNat ∧ a.toNat < 0xFF4C) := busRead_lcdReg (a := a) s h.1 h.2
  have hstat : v.extractLsb' 3 4 = BitVec.ofNat 4 (v.toNat / 8) := by
    rw [BitVec.extractLsb', Nat.shiftRight_eq_div_pow]
  exact ⟨(hwrite 0xFF45 (by decide)).trans (checkLyc_eq_statIrq _),
    (hwrite 0xFF41 (by decide)).trans (hstat ▸ rfl), busRead_stat s ▸ toNat_statByte s.lcd, hwrite 0xFF44 (by decide),
    hread 0xFF44 (by decide), hread 0xFF45 (by decide), hread 0xFF40 (by decide), hread 0xFF42 (by decide),
    hread 0xFF43 (by decide), hread 0xFF46 (by decide), hread 0xFF47 (by decide), hread 0xFF48 (by decide),
    hread 0xFF49 (by decide), hread 0xFF4A (by decide), hread 0xFF4B (by decide), hwrite 0xFF42 (by decide),
    hwrite 0xFF43 (by decide), hwrite 0xFF47 (by decide), hwrite 0xFF48 (by decide), hwrite 0xFF49 (by decide),
    hwrite 0xFF4A (by decide), hwrite 0xFF4B (by decide)⟩

/-! ## OAM DMA (60_exceptions.md R840) -/

/-- One byte is copied while the index is below 160. -/
theorem dmaStep_copies {s : State} (h : s.lcd.dmaIndex < 160) : dmaStep s = { s with
    lcd := { s.lcd with
      oam := memWrite s.lcd.oam s.lcd.dmaIndex (busRead (s.lcd.dmaSrc + BitVec.ofNat 16 s.lcd.dmaIndex) s)
      dmaIndex := s.lcd.dmaIndex + 1 } } := if_pos h

theorem dmaStep_done {s : State} (h : 160 ≤ s.lcd.dmaIndex) : dmaStep s = s := if_neg (Nat.not_lt.mpr h)

/-- The display's step advances an index that is not past its end, up to 160. -/
theorem displayStep_dmaIndex {s : State} (h : s.lcd.dmaIndex ≤ 160) :
    (displayStep s).lcd.dmaIndex = min (s.lcd.dmaIndex + 1) 160 := by
  obtain ⟨-, -, hindex, -⟩ := lcdStep_stores (dmaStep s)
  rw [displayStep, hindex]
  by_cases hlt : s.lcd.dmaIndex < 160
  · rw [dmaStep_copies hlt]
    exact (Nat.min_eq_left hlt).symm
  · rw [dmaStep_done (by omega)]
    omega

/-- So does a run of display steps. -/
theorem iterate_displayStep_dmaIndex {s : State} (h : s.lcd.dmaIndex = 0) (k : Nat) :
    (displayStep^[k] s).lcd.dmaIndex = min k 160 := by
  induction k with
  | zero => simpa using h
  | succ k ih =>
    rw [Function.iterate_succ_apply', displayStep_dmaIndex (ih ▸ Nat.min_le_right k 160), ih]
    omega

/-- Settles O29: the write, the copy of one byte and its frame, and the index of a copy from its start. -/
theorem oamDmaCopiesOneByte : Obligations.OamDmaCopiesOneByte := by
  intro s v
  have hwrite : busWrite 0xFF46 v s = writeDma v s := busWrite_lcdReg s v (by decide) (by decide)
  have hsrc : word v 0 = BitVec.ofNat 16 (v.toNat * 256) := by
    have := v.isLt
    apply BitVec.eq_of_toNat_eq
    have hzero : (0 : Byte).toNat = 0 := rfl
    rw [toNat_word, hzero, BitVec.toNat_ofNat]
    omega
  refine ⟨?write, rfl, fun h => ?copy, dmaStep_done, fun k => iterate_displayStep_dmaIndex (hwrite ▸ rfl) k⟩
  case write => rw [hwrite, writeDma, hsrc]
  case copy =>
    simp only [dmaStep_copies h, memRead_memWrite_same, true_and]
    exact fun j hj => memRead_memWrite_other _ _ hj

end Sys2Proof.Machine
end

section
namespace Sys2Proof.Machine

/-! ## Save and restore (70_reset_and_hazards.md R935) -/

theorem saveFits_iff (saved s : State) :
    saveFits saved s = true ↔ saved.cart.kind = s.cart.kind ∧ saved.cart.ramSize = s.cart.ramSize := by
  simp only [saveFits, Bool.and_eq_true, decide_eq_true_eq]

/-- Settles O36: a machine of the same image, boot ROM and parameters takes the whole saved state; one of another
controller or RAM size refuses it. -/
theorem saveAndRestore : Obligations.SaveAndRestore := by
  intro s t
  refine ⟨fun hkind hramSize hromSize hrom hboot hparams => ⟨s, ?restores, rfl, fun _ => rfl⟩, fun hne => ?refuses⟩
  case restores =>
    rw [restoreState, if_pos ((saveFits_iff (saveState s) t).mpr ⟨hkind.symm, hramSize.symm⟩), hromSize, hrom, hboot,
      hparams]
    rfl
  case refuses =>
    rw [restoreState, if_neg]
    intro hfits
    obtain ⟨hkind, hramSize⟩ := (saveFits_iff (saveState s) t).mp hfits
    exact hne.elim (· hkind.symm) (· hramSize.symm)

end Sys2Proof.Machine
end

section
namespace Sys2Proof.Machine

/-! ## The bits of an extracted or shifted vector (60_exceptions.md R852, R854) -/

section
variable {n : Nat} (v : BitVec n)

/-- An index past the end reads 0, so of a bound check only the lower half matters. -/
theorem getLsbD_inside (k : Int) :
    (decide (0 ≤ k ∧ k < n) && v.getLsbD k.toNat) = (decide (0 ≤ k) && v.getLsbD k.toNat) := by
  by_cases h : k < n
  · simp only [h, and_true]
  · rw [BitVec.getLsbD_of_ge v k.toNat (by omega), Bool.and_false, Bool.and_false]

theorem extractZeroExtended_getLsbD (start : Int) {size j : Nat} (hj : j < size) :
    (extractZeroExtended v start size).getLsbD j = (decide (0 ≤ start + j) && v.getLsbD (start + j).toNat) := by
  unfold extractZeroExtended
  split
  · rw [BitVec.getLsbD_shiftLeft, BitVec.getLsbD_setWidth]
    by_cases h : 0 ≤ start + j
    · have hge : ¬ j < (-start).toNat := by omega
      have hindex : j - (-start).toNat = (start + j).toNat := by omega
      have hlt : (start + j).toNat < size := by omega
      simp only [hj, hge, hlt, h, hindex, decide_true, decide_false, Bool.not_false, Bool.true_and]
    · have hlt : j < (-start).toNat := by omega
      simp only [hlt, h, decide_true, decide_false, Bool.not_true, Bool.and_false, Bool.false_and]
  · have h : 0 ≤ start + j := by omega
    have hindex : start.toNat + j = (start + j).toNat := by omega
    simp only [BitVec.getLsbD_setWidth, BitVec.getLsbD_ushiftRight, hj, h, hindex, decide_true, Bool.true_and]

theorem extractWrapped_getLsbD (hn : 0 < n) (start : Int) {size j : Nat} (hj : j < size) :
    (extractWrapped v start size).getLsbD j = v.getLsbD ((start + j) % n).toNat := by
  have hn' : (0 : Int) < n := by omega
  have hr0 : 0 ≤ start % n := Int.emod_nonneg start hn'.ne'
  have hrn : start % n < n := Int.emod_lt_of_pos start hn'
  -- the copies of v laid side by side reach past the last bit taken
  have hcopies : (start % n).toNat + j < n * (size / n + 2) := by
    have hsize : size < n * (size / n) + n := by
      have := Nat.div_add_mod size n
      have := Nat.mod_lt size hn
      omega
    rw [Nat.mul_add]
    omega
  have hindex : ((start % n).toNat + j) % n = ((start + j) % n).toNat := by
    have hj0 : (((start % n).toNat + j : Nat) : Int) % n = (start + j) % n := by
      rw [Nat.cast_add, Int.toNat_of_nonneg hr0, Int.emod_add_emod]
    rw [← hj0]
    norm_cast
  rw [extractWrapped, BitVec.getLsbD_setWidth, BitVec.getLsbD_ushiftRight, BitVec.getLsbD_replicate, hindex]
  simp only [hj, hcopies, decide_true, Bool.true_and]

theorem shiftBits_getLsbD (d : Int) {j : Nat} (hj : j < n) :
    (shiftBits v d).getLsbD j = (decide (0 ≤ (j : Int) - d) && v.getLsbD ((j : Int) - d).toNat) := by
  rw [shiftBits, extractZeroExtended_getLsbD v (-d) hj, neg_add_eq_sub]

end

/-- Settles O30: the three bit formulas, with an index past the end read as 0. -/
theorem vectorExtraction : Obligations.VectorExtraction := by
  intro n v start size j hn hj
  refine ⟨?_, extractWrapped_getLsbD v hn start hj, fun hjn => ?_⟩
  · rw [getLsbD_inside, extractZeroExtended_getLsbD v start hj]
  · rw [getLsbD_inside, shiftBits_getLsbD v start hjn]

/-! ## Palettes (60_exceptions.md R857) -/

section
variable {n : Nat} (p : PixelLine n) (palette : Byte)

theorem pixelColor_lt (x : Nat) : pixelColor p x < 4 := by
  have := Bool.toNat_lt (p.msb.getLsbD x)
  have := Bool.toNat_lt (p.lsb.getLsbD x)
  unfold pixelColor
  omega

theorem pixelsOfColor_getLsbD {c : Nat} (hc : c < 4) {x : Nat} (hx : x < n) :
    (pixelsOfColor p c).getLsbD x = decide (pixelColor p x = c) := by
  unfold pixelColor
  interval_cases c <;> simp only [pixelsOfColor, BitVec.getLsbD_and, BitVec.getLsbD_not, hx, decide_true, Bool.true_and]
  all_goals cases p.msb.getLsbD x <;> cases p.lsb.getLsbD x <;> rfl

/-- A plane of the mapped line is the palette's bit for the old color, whichever of the four that is. -/
theorem mappedPlane_getLsbD (k : Nat) {x : Nat} (hx : x < n) :
    (mappedPlane p palette k).getLsbD x = palette.getLsbD (2 * pixelColor p x + k) := by
  have hpart (c : Nat) (hc : c < 4) : (if palette.getLsbD (2 * c + k) then pixelsOfColor p c else 0).getLsbD x =
      (palette.getLsbD (2 * c + k) && decide (pixelColor p x = c)) := by
    rw [← pixelsOfColor_getLsbD p hc hx]
    cases palette.getLsbD (2 * c + k)
    · exact BitVec.getLsbD_zero
    · rfl
  have hcolor := pixelColor_lt p x
  simp only [mappedPlane, BitVec.getLsbD_or, hpart, Nat.reduceLT]
  generalize pixelColor p x = c at hcolor
  interval_cases c <;> simp

/-- Two neighbouring bits of a byte are a digit of it in base 4. -/
theorem two_bits_eq_digit : ∀ (b : Byte), ∀ c < 4,
    2 * (b.getLsbD (2 * c + 1)).toNat + (b.getLsbD (2 * c + 0)).toNat = b.toNat / 2 ^ (2 * c) % 4 := by decide

theorem pixelColor_mapColors {x : Nat} (hx : x < n) :
    pixelColor (mapColors p palette) x = palette.toNat / 2 ^ (2 * pixelColor p x) % 4 := by
  rw [← two_bits_eq_digit palette _ (pixelColor_lt p x), ← mappedPlane_getLsbD p palette 1 hx,
    ← mappedPlane_getLsbD p palette 0 hx]
  rfl

/-- The palette that gives each color itself. -/
theorem mapColors_identity : mapColors p 0xE4 = p := by
  have hidentity : ∀ hi lo : Bool, (0xE4 : Byte).getLsbD (2 * (2 * hi.toNat + lo.toNat) + 1) = hi ∧
      (0xE4 : Byte).getLsbD (2 * (2 * hi.toNat + lo.toNat) + 0) = lo := by decide
  have hmsb : mappedPlane p 0xE4 1 = p.msb :=
    BitVec.eq_of_getLsbD_eq fun x hx => (mappedPlane_getLsbD p 0xE4 1 hx).trans (hidentity _ _).1
  have hlsb : mappedPlane p 0xE4 0 = p.lsb :=
    BitVec.eq_of_getLsbD_eq fun x hx => (mappedPlane_getLsbD p 0xE4 0 hx).trans (hidentity _ _).2
  rw [mapColors, hmsb, hlsb]

end

/-- Settles O31: each plane is the palette's bit for the old color. -/
theorem paletteMapping : Obligations.PaletteMapping := fun _ p palette =>
  ⟨fun _ hx => pixelColor_mapColors p palette hx, rfl, mapColors_identity p⟩

/-! ## One pixel of a line -/

/-- Pixel `x` of one line and pixel `y` of another agree in all three planes. -/
structure SamePixel {n m : Nat} (p : PixelLine n) (x : Nat) (q : PixelLine m) (y : Nat) : Prop where
  msb : p.msb.getLsbD x = q.msb.getLsbD y
  lsb : p.lsb.getLsbD x = q.lsb.getLsbD y
  opacity : p.opacity.getLsbD x = q.opacity.getLsbD y

namespace SamePixel

variable {n m k : Nat} {p : PixelLine n} {q : PixelLine m} {r : PixelLine k} {x y z : Nat}

theorem trans (h : SamePixel p x q y) (h' : SamePixel q y r z) : SamePixel p x r z :=
  ⟨h.msb.trans h'.msb, h.lsb.trans h'.lsb, h.opacity.trans h'.opacity⟩

theorem color (h : SamePixel p x q y) : pixelColor p x = pixelColor q y := by
  rw [pixelColor, h.msb, h.lsb, pixelColor]

theorem pixelFrom {p q : PixelLine 160} {palette : Byte} {index : Nat} (h : SamePixel p x q y)
    (hq : PixelFrom palette index q y) : PixelFrom palette index p x :=
  ⟨h.color.trans hq.color, h.opacity.trans hq.opaque_⟩

/-- Pixel x of a wrapped extraction (R852, R855). -/
theorem lineExtractWrapped (q : PixelLine m) (hm : 0 < m) (start : Nat) {size : Nat} (hx : x < size) :
    SamePixel (lineExtractWrapped q start size) x q ((start + x) % m) := by
  have hbit (v : BitVec m) : (extractWrapped v start size).getLsbD x = v.getLsbD ((start + x) % m) :=
    (extractWrapped_getLsbD v hm start hx).trans (by norm_cast)
  exact ⟨hbit _, hbit _, hbit _⟩

/-- Pixel x of a line's beginning (R852, R855). -/
theorem lineExtractBeginning (q : PixelLine m) {size : Nat} (hx : x < size) :
    SamePixel (lineExtractZeroExtended q 0 size) x q x := by
  have hbit (v : BitVec m) : (extractZeroExtended v 0 size).getLsbD x = v.getLsbD x := by
    rw [extractZeroExtended_getLsbD v 0 hx]
    simp
  exact ⟨hbit _, hbit _, hbit _⟩

/-- Pixel x of a line shifted to the right by no more than x (R854, R855). -/
theorem lineShift (p : PixelLine n) {d : Int} (hx : x < n) (hd : d ≤ x) :
    SamePixel (lineShift p d) x p ((x : Int) - d).toNat := by
  have hbit (v : BitVec n) : (shiftBits v d).getLsbD x = v.getLsbD ((x : Int) - d).toNat := by
    rw [shiftBits_getLsbD v d hx, decide_eq_true (show 0 ≤ (x : Int) - d by omega), Bool.true_and]
  exact ⟨hbit _, hbit _, hbit _⟩

/-- `join` shows the first line below the position (R855). -/
theorem lineJoin_left (p q : PixelLine n) {pos : Nat} (hx : x < n) (h : x < pos) : SamePixel (lineJoin p q pos) x p x := by
  have hbit (v w : BitVec n) : (joinBits v w pos).getLsbD x = v.getLsbD x := by
    rw [joinBits_getLsbD v w pos x hx, if_pos h]
  exact ⟨hbit _ _, hbit _ _, hbit _ _⟩

/-- `join` shows the second line from the position on (R855). -/
theorem lineJoin_right (p q : PixelLine n) {pos : Nat} (hx : x < n) (h : pos ≤ x) :
    SamePixel (lineJoin p q pos) x q x := by
  have hbit (v w : BitVec n) : (joinBits v w pos).getLsbD x = w.getLsbD x := by
    rw [joinBits_getLsbD v w pos x hx, if_neg (Nat.not_lt.mpr h)]
  exact ⟨hbit _ _, hbit _ _, hbit _ _⟩

end SamePixel

/-- A pixel that is opaque where its color is not 0 keeps that opacity under a palette. -/
theorem pixelFrom_mapColors {p : PixelLine 160} {x : Nat} (hx : x < 160)
    (hopacity : p.opacity.getLsbD x = (p.msb.getLsbD x || p.lsb.getLsbD x)) (palette : Byte) :
    PixelFrom palette (pixelColor p x) (mapColors p palette) x := by
  refine ⟨pixelColor_mapColors p palette hx, hopacity.trans ?_⟩
  unfold pixelColor
  cases p.msb.getLsbD x <;> cases p.lsb.getLsbD x <;> rfl

/-! ## Background and window (60_exceptions.md R821, R822, R828) -/

/-- A pixel taken from a tile map, through a palette. -/
theorem pixelFrom_mapLine256 {l : Lcd} {p : PixelLine 160} {map : Nat} {row : Byte} {x col : Nat} (hx : x < 160)
    (hmap : 0x8000 ≤ map) (hcol : col < 256) (h : SamePixel p x (mapLine256 l map row) col) (palette : Byte) :
    PixelFrom palette (mapColorIndex l (map - 0x8000) row.toNat col) (mapColors p palette) x := by
  obtain ⟨hcolor, hopacity⟩ := mapLine256_pixel l map hmap row col hcol
  rw [hcolor, ← h.color]
  exact pixelFrom_mapColors hx (by rw [h.opacity, hopacity, h.msb, h.lsb]) palette

/-- The two tile maps, from the start of video RAM (R820). -/
theorem tileMap_offset (second : Bool) :
    0x8000 ≤ (if second then 0x9C00 else 0x9800 : Nat) ∧
    (if second then 0x9C00 else 0x9800 : Nat) - 0x8000 = if second then 0x1C00 else 0x1800 := by
  cases second <;> decide

/-- Pixel x of the background is the map's at row y + SCY, column x + SCX. -/
theorem bgLine_pixelFrom (l : Lcd) (y : Byte) {x : Nat} (hx : x < 160) : PixelFrom l.bgp
    (mapColorIndex l (if lcdcBit l 3 then 0x1C00 else 0x1800) ((y.toNat + l.scy.toNat) % 256) ((x + l.scx.toNat) % 256))
    (bgLine l y) x := by
  obtain ⟨hmap, hoffset⟩ := tileMap_offset (lcdcBit l 3)
  have hcol : (l.scx.toNat + x) % 256 < 256 := Nat.mod_lt _ (by decide)
  have hrow : (y.toNat + l.scy.toNat) % 256 = (y + l.scy).toNat := (BitVec.toNat_add y l.scy).symm
  rw [← hoffset, hrow, Nat.add_comm x]
  exact pixelFrom_mapLine256 hx hmap hcol (.lineExtractWrapped _ (by decide) l.scx.toNat hx) l.bgp

/-- Pixel x of the window's line, from its left edge on, is the map's at row win_line, column x + 7 - WX. -/
theorem windowLine_pixelFrom (l : Lcd) {x : Nat} (hx : x < 160) (hlo : 7 ≤ l.wx.toNat) (hwx : l.wx.toNat ≤ x + 7) :
    PixelFrom l.bgp (mapColorIndex l (if lcdcBit l 6 then 0x1C00 else 0x1800) l.winLine.toNat (x + 7 - l.wx.toNat))
      (windowLine l) x := by
  obtain ⟨hmap, hoffset⟩ := tileMap_offset (lcdcBit l 6)
  have hcol : ((x : Int) - ((l.wx.toNat : Int) - 7)).toNat = x + 7 - l.wx.toNat := by omega
  have hshift := SamePixel.lineShift (lineExtractZeroExtended
    (mapLine256 l (if lcdcBit l 6 then 0x9C00 else 0x9800) l.winLine) 0 160) hx
    (show (l.wx.toNat : Int) - 7 ≤ x by omega)
  rw [← hoffset]
  refine pixelFrom_mapLine256 hx hmap (by omega) (hshift.trans ?_) l.bgp
  rw [hcol]
  exact .lineExtractBeginning _ (by omega)

theorem windowDrawn_iff (l : Lcd) (y : Byte) : windowDrawn l y = true ↔ lcdcBit l 5 = true ∧ lcdcBit l 0 = true ∧
    7 ≤ l.wx.toNat ∧ l.wx.toNat ≤ 166 ∧ l.wy.toNat ≤ y.toNat := by
  simp only [windowDrawn, Bool.and_eq_true, decide_eq_true_eq, and_assoc]

/-- With LCDC bit 0 clear the line is all color 0 and transparent (R828). -/
theorem bgWinLine_off {l : Lcd} (h : lcdcBit l 0 = false) (y : Byte) : bgWinLine l y = PixelLine.zero 160 := by
  simp only [bgWinLine, h, Bool.false_eq_true, if_false]

theorem bgWinLine_window {l : Lcd} {y : Byte} (h : windowDrawn l y = true) :
    bgWinLine l y = lineJoin (bgLine l y) (windowLine l) (l.wx.toNat - 7) := by
  obtain ⟨-, hon, -⟩ := (windowDrawn_iff l y).mp h
  simp only [bgWinLine, hon, h, if_true]

theorem bgWinLine_background {l : Lcd} {y : Byte} (hon : lcdcBit l 0 = true) (h : windowDrawn l y = false) :
    bgWinLine l y = bgLine l y := by
  simp only [bgWinLine, hon, h, if_true, Bool.false_eq_true, if_false]

/-- The window shows from its left edge on. -/
theorem bgWinLine_pixelFrom_window {l : Lcd} {y : Byte} {x : Nat} (hx : x < 160) (h : windowDrawn l y = true)
    (hwx : l.wx.toNat ≤ x + 7) : PixelFrom l.bgp
      (mapColorIndex l (if lcdcBit l 6 then 0x1C00 else 0x1800) l.winLine.toNat (x + 7 - l.wx.toNat)) (bgWinLine l y) x := by
  obtain ⟨-, -, hlo, -, -⟩ := (windowDrawn_iff l y).mp h
  rw [bgWinLine_window h]
  exact (SamePixel.lineJoin_right _ _ hx (by omega)).pixelFrom (windowLine_pixelFrom l hx hlo hwx)

/-- The background shows elsewhere: left of the window, and on every line without one. -/
theorem bgWinLine_pixelFrom_background {l : Lcd} {y : Byte} {x : Nat} (hx : x < 160) (hon : lcdcBit l 0 = true)
    (h : ¬ (windowDrawn l y = true ∧ l.wx.toNat ≤ x + 7)) : PixelFrom l.bgp
      (mapColorIndex l (if lcdcBit l 3 then 0x1C00 else 0x1800) ((y.toNat + l.scy.toNat) % 256)
        ((x + l.scx.toNat) % 256)) (bgWinLine l y) x := by
  cases hdrawn : windowDrawn l y with
  | true =>
    have hleft : ¬ l.wx.toNat ≤ x + 7 := fun hwx => h ⟨hdrawn, hwx⟩
    rw [bgWinLine_window hdrawn]
    exact (SamePixel.lineJoin_left _ _ hx (by omega)).pixelFrom (bgLine_pixelFrom l y hx)
  | false =>
    rw [bgWinLine_background hon hdrawn]
    exact bgLine_pixelFrom l y hx

/-- Settles O32: the background's pixel is the map's color index through BGP. -/
theorem backgroundPixels : Obligations.BackgroundPixels := by
  intro l y x hx
  obtain ⟨hcolor, hopaque⟩ := bgLine_pixelFrom l y hx
  exact ⟨hcolor, hopaque⟩

/-! ## Sprite layers and composition (60_exceptions.md R826, R827) -/

/-- Lines put over one another, the first on top, over the all-zero line. -/
def stackedLines {n : Nat} {α : Type} (line : α → PixelLine n) (es : List α) : PixelLine n :=
  es.foldr (fun e layer => lineBelow layer (line e)) (PixelLine.zero n)

/-- A sprite layer is its selected sprites' lines, stacked. -/
theorem spriteLayer_eq_stackedLines (l : Lcd) (y : Byte) (behind : Bool) : spriteLayer l y behind =
    stackedLines (spriteLine l y) ((selectSprites l y).filter fun e => e.attr.getLsbD 7 == behind) := rfl

@[simp] theorem pixelColor_zero (n x : Nat) : pixelColor (PixelLine.zero n) x = 0 := by
  simp [pixelColor, PixelLine.zero]

@[simp] theorem opacity_zero (n x : Nat) : (PixelLine.zero n).opacity.getLsbD x = false := BitVec.getLsbD_zero

section
variable {n : Nat} {α : Type} (line : α → PixelLine n) {es : List α} {x : Nat} (hx : x < n)
include hx

/-- Pixel x of stacked lines is the first opaque one's. -/
theorem stackedLines_of_find?_some {e : α} (h : es.find? (fun e => (line e).opacity.getLsbD x) = some e) :
    (stackedLines line es).opacity.getLsbD x = true ∧
    pixelColor (stackedLines line es) x = pixelColor (line e) x := by
  induction es with
  | nil => cases h
  | cons top rest ih =>
    rw [stackedLines, List.foldr_cons, lineBelow_opacity, pixelColor_lineBelow _ _ x hx]
    cases htop : (line top).opacity.getLsbD x with
    | true =>
      simp only [List.find?_cons, htop, Option.some.injEq] at h
      exact ⟨Bool.or_true _, h ▸ if_pos rfl⟩
    | false =>
      simp only [List.find?_cons, htop] at h
      obtain ⟨hopaque, hcolor⟩ := ih h
      exact ⟨(Bool.or_false _).trans hopaque, hcolor⟩

/-- Where none is opaque, it is transparent and of color 0. -/
theorem stackedLines_of_find?_none (h : es.find? (fun e => (line e).opacity.getLsbD x) = none) :
    (stackedLines line es).opacity.getLsbD x = false ∧ pixelColor (stackedLines line es) x = 0 := by
  induction es with
  | nil => exact ⟨opacity_zero n x, pixelColor_zero n x⟩
  | cons top rest ih =>
    rw [stackedLines, List.foldr_cons, lineBelow_opacity, pixelColor_lineBelow _ _ x hx]
    cases htop : (line top).opacity.getLsbD x with
    | true => simp only [List.find?_cons, htop, reduceCtorEq] at h
    | false =>
      simp only [List.find?_cons, htop] at h
      obtain ⟨htransparent, hcolor⟩ := ih h
      exact ⟨(Bool.or_false _).trans htransparent, hcolor⟩

end

/-- `below` with a mask takes the color from the other line under the mask (R855). -/
theorem pixelColor_lineBelowMask {n : Nat} (p q : PixelLine n) (mask : BitVec n) {x : Nat} (hx : x < n) :
    pixelColor (lineBelowMask p q mask) x = if mask.getLsbD x then pixelColor q x else pixelColor p x := by
  simp only [pixelColor, lineBelowMask, BitVec.getLsbD_or, BitVec.getLsbD_and, BitVec.getLsbD_not, hx, decide_true,
    Bool.true_and]
  cases mask.getLsbD x <;> simp

/-- The finished line, pixel by pixel: normal sprites, then BEHIND_BG sprites over transparent background (R827). -/
theorem pixelColor_renderLine (l : Lcd) (y : Byte) {x : Nat} (hx : x < 160) : pixelColor (renderLine l y) x =
    if (spriteLayer l y false).opacity.getLsbD x then pixelColor (spriteLayer l y false) x
    else if (spriteLayer l y true).opacity.getLsbD x && !(bgWinLine l y).opacity.getLsbD x then
      pixelColor (spriteLayer l y true) x
    else pixelColor (bgWinLine l y) x := by
  simp only [renderLine, pixelColor_lineBelow _ _ x hx, pixelColor_lineBelowMask _ _ _ hx, BitVec.getLsbD_or,
    BitVec.getLsbD_not, hx, decide_true, Bool.true_and]
  cases (spriteLayer l y true).opacity.getLsbD x <;> cases (bgWinLine l y).opacity.getLsbD x <;> rfl

/-- Settles O33: the composition, the background and window beneath, and the two sprite layers. -/
theorem lineComposition : Obligations.LineComposition := by
  intro l y x hx fg bgs bg
  refine ⟨pixelColor_renderLine l y hx, fun hoff => ?off, ⟨fun hdrawn hwx => ?window, fun hon hnot => ?background,
    fun hdrawn => ?counts, fun hnot => ?keeps⟩, fun behind => ?layers⟩
  case off =>
    rw [show bg = PixelLine.zero 160 from bgWinLine_off hoff y]
    exact ⟨opacity_zero 160 x, pixelColor_zero 160 x⟩
  case window => exact bgWinLine_pixelFrom_window hx ((windowDrawn_iff l y).mpr hdrawn) hwx
  case background =>
    exact bgWinLine_pixelFrom_background hx hon fun ⟨hdrawn, hwx⟩ => hnot ⟨(windowDrawn_iff l y).mp hdrawn, hwx⟩
  case counts => exact if_pos ((windowDrawn_iff l y).mpr hdrawn)
  case keeps => exact if_neg fun hdrawn => hnot ((windowDrawn_iff l y).mp hdrawn)
  case layers =>
    dsimp only
    rw [spriteLayer_eq_stackedLines]
    exact ⟨fun e => stackedLines_of_find?_some (spriteLine l y) hx, stackedLines_of_find?_none (spriteLine l y) hx⟩

end Sys2Proof.Machine
end

section
namespace Sys2Proof.Machine

/-! ## The choice and order of a line's sprites (60_exceptions.md R824) -/

/-- The order of priority: by X. -/
abbrev ByX : Sprite → Sprite → Prop := (fun e : Sprite => e.x.toNat) ⁻¹'o (· ≤ ·)

/-- `insertByX` is the library's ordered insertion, so the selection is its insertion sort. -/
theorem insertByX_eq_orderedInsert (s : Sprite) (es : List Sprite) : insertByX s es = es.orderedInsert ByX s := by
  induction es with
  | nil => rfl
  | cons e rest ih => rw [insertByX, ih]; rfl

theorem foldr_insertByX_eq_insertionSort (es : List Sprite) : es.foldr insertByX [] = es.insertionSort ByX := by
  rw [show insertByX = List.orderedInsert ByX from funext₂ insertByX_eq_orderedInsert]
  rfl

/-- An insertion passes sprites of smaller X only, so among those of one X it comes first. -/
theorem filter_insertByX (x : Byte) (s : Sprite) (es : List Sprite) :
    (insertByX s es).filter (fun e => e.x == x) = (s :: es).filter (fun e => e.x == x) := by
  induction es with
  | nil => rfl
  | cons e rest ih =>
    unfold insertByX
    split
    · rfl
    · rename_i hgt
      rw [List.filter_cons, ih]
      by_cases hs : s.x = x
      · have he : e.x ≠ x := fun he => hgt (by rw [hs, he])
        simp [hs, he]
      · simp [List.filter_cons, hs]

/-- The order by X is stable. -/
theorem filter_foldr_insertByX (x : Byte) (es : List Sprite) :
    (es.foldr insertByX []).filter (fun e => e.x == x) = es.filter (fun e => e.x == x) := by
  induction es with
  | nil => rfl
  | cons e rest ih => rw [List.foldr_cons, filter_insertByX, List.filter_cons, List.filter_cons, ih]

/-- The condition of R824, over the integers. -/
theorem spriteOnLine_eq (h : Nat) (y : Byte) : spriteOnLine h y = fun e : Sprite =>
    decide ((e.y.toNat : Int) - 16 ≤ y.toNat ∧ (y.toNat : Int) < (e.y.toNat : Int) - 16 + h) := by
  funext e
  rw [spriteOnLine, Bool.decide_and]
  congr 1 <;> exact decide_eq_decide.mpr (by omega)

/-- The first ten sprites on the line, in OAM order. -/
def chosenSprites (l : Lcd) (y : Byte) : List Sprite :=
  (((List.range 40).map (spriteAt l)).filter (spriteOnLine (spriteHeight l) y)).take 10

theorem selectSprites_off {l : Lcd} (h : lcdcBit l 1 = false) (y : Byte) : selectSprites l y = [] := by
  simp only [selectSprites, h, Bool.false_eq_true, if_false]

theorem selectSprites_on {l : Lcd} (h : lcdcBit l 1 = true) (y : Byte) :
    selectSprites l y = (chosenSprites l y).foldr insertByX [] := if_pos h

/-! ## The pixels of a sprite (60_exceptions.md R825) -/

/-- A byte placed in a line at `d`: pixel x is its bit x - d. -/
theorem shiftBits_byte_getLsbD (b : Byte) (d : Int) {x : Nat} (hx : x < 160) :
    (shiftBits (b.setWidth 160) d).getLsbD x = (decide (d ≤ x) && b.getLsbD ((x : Int) - d).toNat) := by
  rw [shiftBits_getLsbD _ d hx, BitVec.getLsbD_setWidth]
  by_cases h : ((x : Int) - d).toNat < 160
  · simp only [h, decide_true, Bool.true_and, Int.sub_nonneg]
  · rw [BitVec.getLsbD_of_ge b _ (by omega), Bool.and_false, Bool.and_false, Bool.and_false]

/-- The row of its tile that a sprite shows on line y: FLIP_Y counts from the bottom. -/
def spriteRow (l : Lcd) (y : Byte) (e : Sprite) : Nat :=
  if e.attr.getLsbD 6 then spriteHeight l - 1 - (y.toNat + 16 - e.y.toNat) else y.toNat + 16 - e.y.toNat

/-- Its tile's number: bit 0 does not count where a sprite is two tiles high. -/
def spriteTile (l : Lcd) (e : Sprite) : Nat := if spriteHeight l = 16 then e.tile.toNat / 2 * 2 else e.tile.toNat

/-- Byte `plane` (0 the low, 1 the high) of the row, from the start of video RAM. -/
def spriteByte (l : Lcd) (y : Byte) (e : Sprite) (plane : Nat) : Byte :=
  memRead l.vram (16 * spriteTile l e + 2 * spriteRow l y e + plane)

/-- The eight pixels of a byte plane, leftmost in bit 0, FLIP_X applied. -/
def spritePlane (l : Lcd) (y : Byte) (e : Sprite) (plane : Nat) : Byte :=
  if e.attr.getLsbD 5 then spriteByte l y e plane else reverse8 (spriteByte l y e plane)

/-- Pixel `col` of a plane is a bit of the row's byte, from the left or, flipped, from the right. -/
theorem spritePlane_getLsbD (l : Lcd) (y : Byte) (e : Sprite) (plane : Nat) {col : Nat} (hcol : col < 8) :
    (spritePlane l y e plane).getLsbD col =
      (spriteByte l y e plane).getLsbD (if e.attr.getLsbD 5 then col else 7 - col) := by
  unfold spritePlane
  split
  · rfl
  · exact reverse8_getLsbD _ _ hcol

theorem toNat_and_FE : ∀ tile : Byte, (tile &&& 0xFE).toNat = tile.toNat / 2 * 2 := by decide

/-- The sprite's line before its palette: its two planes, placed at X - 8. -/
def spriteIndexLine (l : Lcd) (y : Byte) (e : Sprite) : PixelLine 160 :=
  lineShift
    { msb := (spritePlane l y e 1).setWidth 160, lsb := (spritePlane l y e 0).setWidth 160,
      opacity := (spritePlane l y e 1 ||| spritePlane l y e 0).setWidth 160 } ((e.x.toNat : Int) - 8)

theorem spriteLine_eq (l : Lcd) (y : Byte) (e : Sprite) : spriteLine l y e =
    mapColors (spriteIndexLine l y e) (if e.attr.getLsbD 4 then l.obp1 else l.obp0) := by
  have htile : (if spriteHeight l = 16 then e.tile &&& 0xFE else e.tile : Byte).toNat = spriteTile l e := by
    unfold spriteTile
    split
    · exact toNat_and_FE e.tile
    · rfl
  have hbyte (plane : Nat) : spriteByte l y e plane =
      vramAt l (0x8000 + 16 * spriteTile l e + 2 * spriteRow l y e + plane) := congrArg (memRead l.vram) (by omega)
  simp only [spriteLine, htile, spriteIndexLine, spritePlane, hbyte, Nat.add_zero]
  rfl

/-- It is opaque where its color is not 0. -/
theorem spriteIndexLine_opacity (l : Lcd) (y : Byte) (e : Sprite) {x : Nat} (hx : x < 160) :
    (spriteIndexLine l y e).opacity.getLsbD x =
      ((spriteIndexLine l y e).msb.getLsbD x || (spriteIndexLine l y e).lsb.getLsbD x) := by
  simp only [spriteIndexLine, lineShift, shiftBits_byte_getLsbD _ _ hx, BitVec.getLsbD_or, Bool.and_or_distrib_left]

/-- Its color at x is the index of R825: a column of its eight, or 0 outside them. -/
theorem pixelColor_spriteIndexLine (l : Lcd) (y : Byte) (e : Sprite) {x : Nat} (hx : x < 160) :
    pixelColor (spriteIndexLine l y e) x = spriteColorIndex l y e x := by
  have hplane (plane : Nat) : (shiftBits ((spritePlane l y e plane).setWidth 160) ((e.x.toNat : Int) - 8)).getLsbD x =
      (decide (e.x.toNat ≤ x + 8 ∧ x + 8 < e.x.toNat + 8) && (spriteByte l y e plane).getLsbD
        (if e.attr.getLsbD 5 then x + 8 - e.x.toNat else 7 - (x + 8 - e.x.toNat))) := by
    have hcol : ((x : Int) - ((e.x.toNat : Int) - 8)).toNat = x + 8 - e.x.toNat := by omega
    rw [shiftBits_byte_getLsbD _ _ hx, hcol]
    by_cases hin : x + 8 < e.x.toNat + 8
    · rw [spritePlane_getLsbD l y e plane (by omega)]
      congr 1
      exact decide_eq_decide.mpr (by omega)
    · rw [BitVec.getLsbD_of_ge (spritePlane l y e plane) _ (by omega), Bool.and_false,
        decide_eq_false (fun h => hin h.2), Bool.false_and]
  simp only [pixelColor, spriteIndexLine, lineShift, hplane]
  by_cases hin : e.x.toNat ≤ x + 8 ∧ x + 8 < e.x.toNat + 8
  · rw [decide_eq_true hin, spriteColorIndex, if_pos hin]
    rfl
  · rw [decide_eq_false hin, spriteColorIndex, if_neg hin]
    rfl

/-- Settles O34: the selection is a stable sort by X of the chosen ten, and a sprite's line is its tile row at X - 8. -/
theorem spriteSelection : Obligations.SpriteSelection := by
  intro l y chosen
  have hchosen : chosen = chosenSprites l y := by rw [chosenSprites, spriteOnLine_eq]
  refine ⟨fun off => selectSprites_off off y, fun on => ?order, fun e hx => ?hidden, fun _ => rfl, rfl,
    fun e x hx _ _ => ?pixels⟩
  case order =>
    rw [hchosen, selectSprites_on on]
    refine ⟨?_, ?_, fun x => filter_foldr_insertByX x _⟩
    · rw [foldr_insertByX_eq_insertionSort]
      exact List.perm_insertionSort ByX _
    · rw [foldr_insertByX_eq_insertionSort]
      exact List.pairwise_insertionSort ByX _
  case hidden =>
    rw [spriteLine_eq]
    refine shiftBits_byte_out _ _ ?_
    rcases hx with h0 | h168
    · rw [h0]; exact .inl (by decide)
    · omega
  case pixels =>
    rw [spriteLine_eq, ← pixelColor_spriteIndexLine l y e hx]
    exact pixelFrom_mapColors hx (spriteIndexLine_opacity l y e hx) _

end Sys2Proof.Machine
end

section
namespace Sys2Proof.Machine

/-! ## The two launch states (70_reset_and_hazards.md R901, R906) -/

/-- A store of no bytes holds nothing: every cell is outside it. -/
theorem memOfCells_zero (cells : List Host.Cell) : memOfCells 0 cells = [] :=
  List.foldlRecOn (motive := (· = [])) cells _ rfl fun _ hm _ _ => hm

/-- The loader leaves MBC1's registers at their values of R142, and cartridge RAM at its initial contents. -/
theorem loadCart_fresh {n : Nat} {image ram : List Host.Cell} {c : Cart} (h : loadCart n image ram = .ok c) :
    c.ramEnable = false ∧ c.romBank5 = 1 ∧ c.bank2 = 0 ∧ c.bankMode = false ∧ c.ram = memOfCells c.ramSize ram := by
  obtain ⟨-, rfl⟩ | ⟨k, -, rfl⟩ := loadCart_ok_cases h
  · exact ⟨rfl, rfl, rfl, rfl, (memOfCells_zero ram).symm⟩
  · exact ⟨rfl, rfl, rfl, rfl, rfl⟩

/-- An accepted image launched with the boot ROM makes the reset state of R901. -/
theorem construct_runBootRom {l : Launch} {c : Cart} (hload : loadCart l.romSize l.cart l.initCartRam = .ok c)
    (hmode : l.bootMode = .runBootRom) : construct l = .ok (bootRomState l c) := by
  rw [construct, hload, hmode]

/-- The launch that `State.reset` is of: nothing listed, and the two open parameters left open. -/
def blankLaunch : Launch :=
  { romSize := 32768, cart := [], bootRom := [], bootMode := .runBootRom, initWram := [], initVram := [], initOam := [],
    initHram := [], initCartRam := [], eiDelay := Config.eiDelay, haltBug := Config.haltBug }

/-- The blank cartridge's image has header byte 0x147 = 0 and MBC0's length. -/
theorem construct_blankLaunch : construct blankLaunch = .ok State.reset :=
  construct_runBootRom (loadCart_unbanked [] ⟨rfl, rfl⟩) rfl

/-- Settles O12: the state after reset is one that a launch makes. -/
theorem resetMeetsInvariant : Obligations.ResetMeetsInvariant :=
  (constructMeetsInvariant blankLaunch State.reset construct_blankLaunch).1

theorem regsGet_reset (r : RegId) : regsGet r Regs.reset = 0 := by
  cases r <;> rfl

/-- Settles O15: the launch fixes every field but the cartridge, whose registers and RAM the loader fixes. -/
theorem bootRomResetState : Obligations.BootRomResetState := by
  intro l s h hmode
  obtain ⟨c, hload, ⟨-, rfl⟩ | ⟨hpost, -⟩⟩ := construct_ok_cases h
  · obtain ⟨henable, hbank5, hbank2, hbankMode, hram⟩ := loadCart_fresh hload
    simp only [bootRomState, readReg, regsGet_reset, Timer.reset, Lcd.reset, henable, hbank5, hbank2, hbankMode, ← hram,
      implies_true, and_self]
  · exact absurd (hmode.symm.trans hpost) nofun

/-- DIV reads as the upper byte of the main counter (R760). -/
theorem busRead_div (s : State) : busRead 0xFF04 s = hiByte s.timer.tcount :=
  busRead_timerReg (a := 0xFF04) s (by decide) (by decide)

/-- Settles O16: R906 replaces its values in the R901 state of the same launch, around the same cartridge. -/
theorem construct_postBootState : Obligations.PostBootState := by
  intro l s h hmode
  obtain ⟨c, hload, ⟨hrun, -⟩ | ⟨-, rfl⟩⟩ := construct_ok_cases h
  · exact absurd (hmode.symm.trans hrun) nofun
  · have hif : busRead 0xFF0F (postBootState l c) = 0xE1 :=
      (busRead_if _).trans (by decide : (0xE0 : Byte) ||| (0x01 : BitVec 5).setWidth 8 = 0xE1)
    have hdiv : busRead 0xFF04 (postBootState l c) = 0xAB := (busRead_div _).trans (by decide : hiByte 0xABCC = 0xAB)
    have hf : readReg .f (postBootState l c) = 0xB0 := (by decide : flagsByte (flagsOfByte 0xB0) = 0xB0)
    have hbc : readBc (postBootState l c) = 0x0013 := (by decide : word 0x00 0x13 = 0x0013)
    have hde : readDe (postBootState l c) = 0x00D8 := (by decide : word 0x00 0xD8 = 0x00D8)
    have hhl : readHl (postBootState l c) = 0x014D := (by decide : word 0x01 0x4D = 0x014D)
    exact ⟨rfl, hf, hbc, hde, hhl, rfl, rfl, hif, hdiv, rfl, rfl, rfl, rfl, bootRomState l c,
      construct_runBootRom (l := { l with bootMode := .runBootRom }) hload rfl, rfl⟩

end Sys2Proof.Machine
end
